-- ==== Sys2Proof/Word.lean ====
section
/-! DEFINITION. The types of the values the block handles (00_scope.md R7, R8).
Bytes, 16-bit CRC values and the 32-bit command word are bits; lengths and lane indices are natural
numbers, because R8 says that length arithmetic is on unbounded natural numbers. -/

namespace Sys2Proof

/-- One byte; bit 7 is its most significant bit (R7). -/
abbrev Byte := BitVec 8

/-- A 16-bit CRC value (R6 CRC_WIDTH, R7). -/
abbrev Word16 := BitVec 16

/-- A command word, delivered to the block whole; no byte order applies to it (R45, R60). -/
abbrev CmdWord := BitVec 32

/-- A lane array: a fixed number of byte lanes, lane `i` being `L[i]` (R8, R41). -/
abbrev Lanes (n : Nat) := Vector Byte n

end Sys2Proof
end

