-- ==== Sys2Proof/Syntax.lean ====
section
/-! DEFINITION. The commands of the block, one constructor per row of spec/opcode_table.json
(00_scope.md R2, 30_encoding.md R65). A field that is a count or a length is a natural number (R64: "every
field is an unsigned integer"); WellFormed.lean says which values its bits can hold (log 11). -/

namespace Sys2Proof

/-- A command. Reserved bits are not fields: they must be zero (R67) and the decoder refuses them. -/
inductive Instr where
  /-- Format C, OP = 0x1 (R61): one call of the CRC engine. -/
  | crcupd (bits : Nat) (data : Byte) (crcin : Word16)
  /-- Format A, OP = 0x2 (R62): assemble one frame. -/
  | assemble (alen plen clen align : Nat) (noack big : Bool) (seq : Byte)
  /-- Format P, OP = 0x3 (R63): test one framing hypothesis. -/
  | parse (alen plen clen align rawlen : Nat)
deriving DecidableEq, Repr

end Sys2Proof
end

