-- ==== Sys2Proof/WellFormed.lean ====
section
/-! DEFINITION. Which terms of Instr a command word can carry (every field within its width, 30_encoding.md
R61 to R63), and which of those carry only values the source admits (the "legal values" columns there). -/

namespace Sys2Proof.Instr

/-- Every field fits the bits its format gives it: BITS 4, ALEN and PLEN 6, CLEN 2, ALIGN 3, RAWLEN 7. -/
abbrev WellFormed : Instr → Prop
  | .crcupd bits _ _ => bits < 16
  | .assemble alen plen clen align _ _ _ => alen < 64 ∧ plen < 64 ∧ clen < 4 ∧ align < 8
  | .parse alen plen clen align rawlen => alen < 64 ∧ plen < 64 ∧ clen < 4 ∧ align < 8 ∧ rawlen < 128

/-- ALEN, PLEN, CLEN and ALIGN hold values the source admits (R6, R62, R63). -/
abbrev LengthsAdmitted (alen plen clen align : Nat) : Prop :=
  align = 0 ∧ plen ≤ 32 ∧ (1 ≤ alen ∧ alen ≤ 32) ∧ (clen = 1 ∨ clen = 2)

/-- Every field holds a legal value of R61 to R63, with RAWLEN covering the hypothesis's frame. -/
abbrev Admitted : Instr → Prop
  | .crcupd bits _ _ => 1 ≤ bits ∧ bits ≤ 8
  | .assemble alen plen clen align _ _ _ => LengthsAdmitted alen plen clen align
  | .parse alen plen clen align rawlen =>
    LengthsAdmitted alen plen clen align ∧ 1 + alen + plen + clen ≤ rawlen ∧ rawlen < 128

end Sys2Proof.Instr
end

