-- ==== Sys2Proof/Decode.lean ====
section
/-! DEFINITION. From a command word to a command, and back (30_encoding.md R60 to R67).
The decoder is total: a word that fits no row of R65's table is rejected, and the rejection says why. -/

namespace Sys2Proof

/-- Why a word spells no command (R65). -/
inductive DecodeReject where
  /-- OP is 0x0 or 0x4 to 0xF (R66). -/
  | reservedOpcode (op : Nat)
  /-- OP is legal and a reserved bit of its format is set (R67). -/
  | reservedBits
deriving DecidableEq, Repr

/-- What the decoder reads from a word. -/
inductive Decoded where
  | command (i : Instr)
  | rejected (why : DecodeReject)
deriving DecidableEq, Repr

/-- The command, where there is one. -/
def Decoded.command? : Decoded → Option Instr
  | .command i => some i
  | .rejected _ => none

/-- `CMD[lo + width - 1 : lo]` read with zext (R8, R64). -/
def cmdField (w : CmdWord) (lo width : Nat) : Nat := (w.extractLsb' lo width).toNat

/-- Format C (R61). -/
def decodeCrcupd (w : CmdWord) : Decoded :=
  .command (.crcupd (cmdField w 4 4) (w.extractLsb' 8 8) (w.extractLsb' 16 16))

/-- Format A (R62); `CMD[23]` must be zero (R67). -/
def decodeAssemble (w : CmdWord) : Decoded :=
  if w.getLsbD 23 then .rejected .reservedBits
  else .command (.assemble (cmdField w 4 6) (cmdField w 10 6) (cmdField w 16 2) (cmdField w 18 3)
    (w.getLsbD 21) (w.getLsbD 22) (w.extractLsb' 24 8))

/-- Format P (R63); `CMD[31:28]` must be zero (R67). -/
def decodeParse (w : CmdWord) : Decoded :=
  if cmdField w 28 4 ≠ 0 then .rejected .reservedBits
  else .command (.parse (cmdField w 4 6) (cmdField w 10 6) (cmdField w 16 2) (cmdField w 18 3)
    (cmdField w 21 7))

/-- The opcode map of R65, over `CMD[3:0]`. -/
def decode (w : CmdWord) : Decoded :=
  match cmdField w 0 4 with
  | 1 => decodeCrcupd w
  | 2 => decodeAssemble w
  | 3 => decodeParse w
  | op => .rejected (.reservedOpcode op)

/-- A field of a command word: the value at its place, zeros elsewhere. -/
def fieldAt {n : Nat} (v : BitVec n) (lo : Nat) : CmdWord := v.setWidth 32 <<< lo

/-- The command word of a well-formed command, its fields laid out as R61 to R63 place them, reserved bits
zero: `CRCIN << 16 | DATA << 8 | BITS << 4 | 0x1` for CRCUPD, and so on. -/
def encode : Instr → CmdWord
  | .crcupd bits data crcin => fieldAt crcin 16 ||| fieldAt data 8 ||| fieldAt (BitVec.ofNat 4 bits) 4 ||| 0x1#32
  | .assemble alen plen clen align noack big seq =>
    fieldAt seq 24 ||| fieldAt (BitVec.ofBool big) 22 ||| fieldAt (BitVec.ofBool noack) 21 |||
      fieldAt (BitVec.ofNat 3 align) 18 ||| fieldAt (BitVec.ofNat 2 clen) 16 ||| fieldAt (BitVec.ofNat 6 plen) 10 |||
      fieldAt (BitVec.ofNat 6 alen) 4 ||| 0x2#32
  | .parse alen plen clen align rawlen =>
    fieldAt (BitVec.ofNat 7 rawlen) 21 ||| fieldAt (BitVec.ofNat 3 align) 18 ||| fieldAt (BitVec.ofNat 2 clen) 16 |||
      fieldAt (BitVec.ofNat 6 plen) 10 ||| fieldAt (BitVec.ofNat 6 alen) 4 ||| 0x3#32

/-- One row of the opcode map as match and mask over `CMD` (R65). -/
structure OpcodeRow where
  mask : CmdWord
  pattern : CmdWord
deriving DecidableEq, Repr

/-- The word fits the row. -/
def OpcodeRow.fits (r : OpcodeRow) (w : CmdWord) : Bool := w &&& r.mask == r.pattern

/-- CRCUPD's row of R65. -/
def rowCrcupd : OpcodeRow := ⟨0x0000000F#32, 0x00000001#32⟩

/-- ASSEMBLE's row of R65. -/
def rowAssemble : OpcodeRow := ⟨0x0080000F#32, 0x00000002#32⟩

/-- PARSE's row of R65. -/
def rowParse : OpcodeRow := ⟨0xF000000F#32, 0x00000003#32⟩

/-- The row of R65 a command stands in. -/
def Instr.row : Instr → OpcodeRow
  | .crcupd _ _ _ => rowCrcupd
  | .assemble _ _ _ _ _ _ _ => rowAssemble
  | .parse _ _ _ _ _ => rowParse

/-- The command word whose low `nbits` bits are those of `w` and whose other bits are zero; the word is
whole, so there are no bytes to order (R45). -/
def tableWord (nbits w : Nat) : CmdWord := BitVec.ofNat 32 (w % 2 ^ nbits)

/-- The command the decoder reads from a word numbered as spec/opcode_table.json numbers it. -/
def decodeTableWord (nbits w : Nat) : Option Instr := (decode (tableWord nbits w)).command?

end Sys2Proof
end

