-- ==== Sys2Proof/Machine/State.lean ====
section
/-! DEFINITION. The machine's state as plain data (10_state.md R22), the reasons a step can stop, and the
state right after reset (70_reset_and_hazards.md R160).
The block's own elements are `busy`, `req`, `rspValid` and `rsp`; `schedule`, `reads` and `draws` are the
model's: the host agent of R20 and the counter of the free values (log 1, log 5). -/

namespace Sys2Proof.Machine

/-- The request latch, written whole by ISSUE (R22, R165). -/
structure Request where
  /-- `REQ.CMD`. -/
  cmd : CmdWord
  /-- `REQ.A_IN`, the address bytes of ASSEMBLE. -/
  aIn : Lanes 32
  /-- `REQ.P_IN`, the payload bytes of ASSEMBLE. -/
  pIn : Lanes 32
  /-- `REQ.F_IN`, the raw buffer of PARSE. -/
  fIn : Lanes 127
deriving DecidableEq, Repr

/-- The response latch, written whole by EXEC (R22, R23). -/
structure Response where
  /-- `RSP.STATUS`, a code of R140. -/
  status : BitVec 4
  /-- `RSP.CRC_OUT`. -/
  crcOut : Word16
  /-- `RSP.PKT_ALEN`. -/
  pktAlen : BitVec 6
  /-- `RSP.PKT_PLEN`. -/
  pktPlen : BitVec 6
  /-- `RSP.PKT_CLEN`. -/
  pktClen : BitVec 2
  /-- `RSP.PKT_SEQ`. -/
  pktSeq : Byte
  /-- `RSP.PKT_NOACK`. -/
  pktNoack : Bool
  /-- `RSP.PKT_BIG`. -/
  pktBig : Bool
  /-- `RSP.PKT_A`, the address. -/
  pktA : Lanes 32
  /-- `RSP.PKT_P`, the payload. -/
  pktP : Lanes 32
  /-- `RSP.PKT_C`, the CRC field. -/
  pktC : Lanes 2
  /-- `RSP.PKT_F`, the assembled frame. -/
  pktF : Lanes 67
  /-- `RSP.PKT_FLEN_BYTES`. -/
  pktFlenBytes : BitVec 7
  /-- `RSP.PKT_FLEN_BITS`. -/
  pktFlenBits : BitVec 10
deriving DecidableEq, Repr

/-- One turn of the schedule: a step of the host (R162 ISSUE, READ; R160 reset) or a turn it leaves to the
block (R162 EXEC). -/
inductive Turn where
  /-- The host ISSUEs this request. -/
  | issue (r : Request)
  /-- The block's turn: EXEC where it is enabled. -/
  | exec
  /-- The host READs the response latch. -/
  | read
  /-- Reset. -/
  | reset
deriving DecidableEq, Repr

/-- The block's state elements (R22) and, after them, the model's own fields. -/
structure State where
  /-- `BUSY`. -/
  busy : Bool
  /-- `REQ`, the request latch. -/
  req : Request
  /-- `RSP_VALID`. -/
  rspValid : Bool
  /-- `RSP`, the response latch. -/
  rsp : Response
  /-- MODEL'S OWN: the turns to come, the next one first (log 1). -/
  schedule : List Turn
  /-- MODEL'S OWN: what the host's READs returned, the newest first (log 1). -/
  reads : List Response
  /-- MODEL'S OWN: how many free responses have been drawn (log 5). -/
  draws : Nat
deriving DecidableEq, Repr

/-- The reasons the machine stops with a fault. -/
inductive Fault where
  /-- Raised by a READ while `RSP_VALID = 0` (R164, 93_implementation_defined.md U11). SAFE: the model stops
  where the spec gives no value (log 6). -/
  | readWithoutResponse
deriving DecidableEq, Repr

/-- The reasons the model gives an instruction no meaning. -/
inductive Refusal where
  /-- Raised by exec's arm of a command that has no meaning yet, by its mnemonic; no arm of this model does.
  SAFE. -/
  | notModelled (mnemonic : String)
deriving DecidableEq, Repr

/-- A request latch of zeros: the command word 0 and every lane 0. -/
def Request.zero : Request :=
  { cmd := 0#32, aIn := Vector.replicate 32 0#8, pIn := Vector.replicate 32 0#8, fIn := Vector.replicate 127 0#8 }

/-- A response latch of zeros (R25: what a command's rule does not write holds zero). -/
def Response.zero : Response :=
  { status := 0#4, crcOut := 0#16, pktAlen := 0#6, pktPlen := 0#6, pktClen := 0#2, pktSeq := 0#8,
    pktNoack := false, pktBig := false, pktA := Vector.replicate 32 0#8, pktP := Vector.replicate 32 0#8,
    pktC := Vector.replicate 2 0#8, pktF := Vector.replicate 67 0#8, pktFlenBytes := 0#7, pktFlenBits := 0#10 }

/-- The machine right after reset: `BUSY = 0` and `RSP_VALID = 0` (R160). The latches are unspecified there;
DESIGN CHOICE: they hold zeros, unsafe (log 3). The schedule is empty: nothing need be initialised before the
first command (R161), and a program is whatever the host issues (log 10). -/
def State.reset : State :=
  { busy := false, req := Request.zero, rspValid := false, rsp := Response.zero, schedule := [], reads := [],
    draws := 0 }

end Sys2Proof.Machine
end

