-- ==== Sys2Proof/Machine/Flags.lean ====
section
/-! DEFINITION. `RSP.STATUS`, the block's only outcome indicator (10_state.md R29): its codes, their classes and
the checks that give them, in order (60_exceptions.md R140 to R142). -/

namespace Sys2Proof.Machine

/-- The statuses of R140. -/
inductive Status where
  | ok
  | crcMismatch
  | payloadTooLong
  | badLength
  | badBitcount
  | shortBuffer
  | alignUnsupported
  | illegalCommand
deriving DecidableEq, Repr

/-- The code of a status (R140). -/
def Status.code : Status → BitVec 4
  | .ok => 0#4
  | .crcMismatch => 1#4
  | .payloadTooLong => 2#4
  | .badLength => 3#4
  | .badBitcount => 4#4
  | .shortBuffer => 5#4
  | .alignUnsupported => 6#4
  | .illegalCommand => 7#4

/-- The status of a code; the codes 8 to 15 are never produced (R140). -/
def Status.ofCode? (c : BitVec 4) : Option Status :=
  match c.toNat with
  | 0 => some .ok
  | 1 => some .crcMismatch
  | 2 => some .payloadTooLong
  | 3 => some .badLength
  | 4 => some .badBitcount
  | 5 => some .shortBuffer
  | 6 => some .alignUnsupported
  | 7 => some .illegalCommand
  | _ => none

/-- How a claim may speak of a status: the classes of R141, with the two treatments that R141 and
93_implementation_defined.md give the third class (U1, U3 to U6). -/
inductive Treatment where
  /-- A result of the hardware as the source defines it. -/
  | result
  /-- A clean rejection the source requires. -/
  | cleanRejection
  /-- An input the source leaves undefined, which is never part of a good run. -/
  | fault
  /-- An input the source says must not be given a guessed meaning. -/
  | refusal
deriving DecidableEq, Repr

/-- The class of each status (R141). -/
def Status.treatment : Status → Treatment
  | .ok => .result
  | .crcMismatch => .result
  | .payloadTooLong => .cleanRejection
  | .badLength => .fault
  | .badBitcount => .fault
  | .shortBuffer => .fault
  | .illegalCommand => .fault
  | .alignUnsupported => .refusal

/-- CRCUPD's check (R83, R142): the status that ends the command, or none. -/
def bitcountStatus (bits : Nat) : Option Status :=
  if bits < 1 ∨ bits > 8 then some .badBitcount else none

/-- The checks ASSEMBLE and PARSE share, in the order of R142. -/
def lengthStatus (alen plen clen align : Nat) : Option Status :=
  if align ≠ 0 then some .alignUnsupported
  else if plen > 32 then some .payloadTooLong
  else if alen < 1 ∨ alen > 32 then some .badLength
  else if clen ≠ 1 ∧ clen ≠ 2 then some .badLength
  else none

/-- PARSE's checks before any lane is read, in the order of R142: the shared ones, then SHORT_BUFFER. -/
def parseStatus (alen plen clen align rawlen : Nat) : Option Status :=
  match lengthStatus alen plen clen align with
  | some st => some st
  | none => if rawlen < 1 + alen + plen + clen then some .shortBuffer else none

/-- `check(CMD, lanes)` of R142 as that rule writes it, over the raw command word. The machine's own path is
the decoder and the meanings; that the two agree is a statement of Obligations.lean. -/
def check (w : CmdWord) : Option Status :=
  let op := cmdField w 0 4
  let align := cmdField w 18 3
  let plen := cmdField w 10 6
  let alen := cmdField w 4 6
  let clen := cmdField w 16 2
  let bits := cmdField w 4 4
  let rawlen := cmdField w 21 7
  if op ≠ 1 ∧ op ≠ 2 ∧ op ≠ 3 then some .illegalCommand
  else if op = 2 ∧ cmdField w 23 1 ≠ 0 then some .illegalCommand
  else if op = 3 ∧ cmdField w 28 4 ≠ 0 then some .illegalCommand
  else if op = 1 then (if bits < 1 ∨ bits > 8 then some .badBitcount else none)
  else if align ≠ 0 then some .alignUnsupported
  else if plen > 32 then some .payloadTooLong
  else if alen < 1 ∨ alen > 32 then some .badLength
  else if clen ≠ 1 ∧ clen ≠ 2 then some .badLength
  else if op = 3 ∧ rawlen < 1 + alen + plen + clen then some .shortBuffer
  else none

end Sys2Proof.Machine
end

