-- ==== Sys2Proof/Config.lean ====
section
/-! DEFINITION. The implementation parameters of 00_scope.md R6 and the model's free values.
CRC_REFLECT (none) and CRC_XOROUT (0x0000) are the absence of a step and so have no constant here.
The length limits MAX_ALEN, MIN_ALEN, MAX_PLEN, CLEN_SET and ALIGN_ADMITTED stand as the literals of R142's
pseudocode in Machine/Flags.lean, the lane counts A_LANES, P_LANES, F_LANES and PKT_F_LANES in the types of
Machine/State.lean, and SEQ_WIDTH in the type of Instr.assemble. -/

namespace Sys2Proof.Config

/-- CRC_POLY: x^16 + x^12 + x^5 + 1, the x^16 term implicit (R6). -/
def crcPoly : Word16 := 0x1021#16

/-- CRC_INIT, the seed (R6). -/
def crcInit : Word16 := 0xFFFF#16

/-- The two readings of the parameter CRC1_BYTE: which byte of the CRC a 1-byte CRC field carries
(R6, 93_implementation_defined.md U9). -/
inductive Crc1Byte where
  /-- CRC bits [15:8]. -/
  | high
  /-- CRC bits [7:0]. -/
  | low
deriving DecidableEq, Repr

/-- CRC1_BYTE = HIGH, the spec's value (R6, R44, decision D15). The operations that build and read a
CRC field take the parameter as an argument, so that a claim can speak of both (log 8). -/
def crc1Byte : Crc1Byte := .high

/-- FREE VALUE: the bits that element `slot` of the response latch holds after the `draw`-th ISSUE, which
makes the previous response unspecified (R162, R163). It has no body: nothing constrains it (log 5), but that it is a
function of the draw and the slot: equal draws of two instances are equal (DESIGN CHOICE, log 5, log 16). -/
opaque freeBits : (draw : Nat) → (slot : Nat) → Word16

end Sys2Proof.Config
end

