-- ==== Sys2Proof/Machine/Operands.lean ====
section
/-! DEFINITION. Reading request lanes, writing response lanes, and the bytes of a CRC field (00_scope.md R8,
20_memory.md R41 to R46). -/

namespace Sys2Proof.Machine

/-- `c[15:8]` (R7). -/
def hiByte (c : Word16) : Byte := c.extractLsb' 8 8

/-- `c[7:0]` (R7). -/
def loByte (c : Word16) : Byte := c.extractLsb' 0 8

/-- `{d, 0x00}`: a byte in bits [15:8] (R80). -/
def inHighByte (d : Byte) : Word16 := d.setWidth 16 <<< 8

/-- `{hi, lo}`, the 16-bit value `hi * 256 + lo` (R8). -/
def bytePair (hi lo : Byte) : Word16 := inHighByte hi ||| lo.setWidth 16

/-- `L[i]`. Every index a command reaches lies in the array (R41, R112, R128); outside it the value would be
0, which no command sees (log 12). -/
def laneAt {n : Nat} (L : Lanes n) (i : Nat) : Byte := (L[i]?).getD 0#8

/-- `MemRead(L, i, n)`, the lanes `L[i..i+n-1]` in increasing order (R8). -/
def memRead {n : Nat} (L : Lanes n) (i count : Nat) : List Byte := (List.range count).map fun j => laneAt L (i + j)

/-- `MemWrite(L, i, n, s)`: the bytes of `s` to the lanes from `L[i]` up (R8). -/
def memWrite {n : Nat} (L : Lanes n) (i : Nat) : List Byte → Lanes n
  | [] => L
  | b :: s => memWrite (L.setIfInBounds i b) (i + 1) s

/-- `L[i+j] <- L[i+j] | s[j]`, the source's way of placing bytes (R48, R104, R106). -/
def memOr {n : Nat} (L : Lanes n) (i : Nat) : List Byte → Lanes n
  | [] => L
  | b :: s => memOr (L.setIfInBounds i (laneAt L i ||| b)) (i + 1) s

/-- `FL = 1 + ALEN + PLEN + CLEN` (R101). -/
def frameLength (alen plen clen : Nat) : Nat := 1 + alen + plen + clen

/-- `CP = 1 + ALEN + PLEN`, the frame offset of the CRC field (R106, R121). -/
def crcOffset (alen plen : Nat) : Nat := 1 + alen + plen

/-- The byte of the CRC that a 1-byte CRC field carries (R44, R6 CRC1_BYTE). -/
def crcOneByte (which : Config.Crc1Byte) (crc : Word16) : Byte :=
  match which with
  | .high => hiByte crc
  | .low => loByte crc

/-- The bytes of a CRC field of `clen` bytes (1 or 2), high byte first (R44, R106). DESIGN CHOICE: any `clen` but 2
gives a 1-byte field, and no command reaches a `clen` other than 1 and 2 (log 17). -/
def crcField (which : Config.Crc1Byte) (clen : Nat) (crc : Word16) : List Byte :=
  if clen = 2 then [hiByte crc, loByte crc] else [crcOneByte which crc]

/-- `exp`: what ASSEMBLE would have placed for this CRC, as a 16-bit value (R122); a `clen` other than 1
and 2 is read as 1 (log 17). -/
def expectedCrc (which : Config.Crc1Byte) (clen : Nat) (crc : Word16) : Word16 :=
  if clen = 2 then crc else (crcOneByte which crc).setWidth 16

/-- `emb`: the CRC value embedded in the raw buffer at `cp` (R121); a `clen` other than 1 and 2 is read as 1
(log 17). -/
def embeddedCrc {n : Nat} (clen : Nat) (F : Lanes n) (cp : Nat) : Word16 :=
  if clen = 2 then bytePair (laneAt F cp) (laneAt F (cp + 1)) else (laneAt F cp).setWidth 16

end Sys2Proof.Machine
end

