-- ==== Sys2Proof/Machine/Ops.lean ====
section
/-! DEFINITION. The shared operations over the state: ending a command with OK or with a failing status
(60_exceptions.md R143), and the host's steps ISSUE, READ and reset (70_reset_and_hazards.md R160, R162). -/

namespace Sys2Proof.Machine

/-- The end of every EXEC: the whole response is written, `RSP_VALID <- 1`, `BUSY <- 0` (R162, R49). -/
def State.complete (s : State) (r : Response) : State := { s with rsp := r, rspValid := true, busy := false }

/-- A response with this status in its STATUS field. -/
def Response.withStatus (r : Response) (st : Status) : Response := { r with status := st.code }

/-- `finish OK`: the command ends with status OK and the response fields its rule wrote (R8, R25). -/
def State.finishOk (s : State) (r : Response) : State := s.complete (r.withStatus .ok)

/-- The response of a command that fails: `STATUS`, and every other field and lane 0 (R143). -/
def failedResponse (st : Status) : Response := Response.zero.withStatus st

/-- `raise S`: the command ends with status `S` in the same step, nothing else written (R8, R143). This is the
block's only exception entry: no state is saved and no vector is taken, and there is no return (R144). -/
def State.raise (s : State) (st : Status) : State := s.complete (failedResponse st)

/-- The end of a command whose word spells none, whichever way the decoder rejected it: `ILLEGAL_COMMAND`
(R66, R67, R142). -/
def State.rejectCommand (s : State) (_why : DecodeReject) : Host.Outcome State Fault Refusal :=
  .next (s.raise .illegalCommand)

/-- An unspecified response: every element a free value of its own (R22, R163; log 5). DESIGN CHOICE, unsafe: the
value depends on the draw and the element only, so two instances of the block (R148), or two runs, with equal draw
counters hold equal unspecified responses, where the spec leaves open whether they are related (log 5, log 16). -/
def freeResponse (draw : Nat) : Response :=
  let bits := Config.freeBits draw
  { status := (bits 0).setWidth 4, crcOut := bits 1, pktAlen := (bits 2).setWidth 6, pktPlen := (bits 3).setWidth 6,
    pktClen := (bits 4).setWidth 2, pktSeq := (bits 5).setWidth 8, pktNoack := (bits 6).getLsbD 0,
    pktBig := (bits 7).getLsbD 0, pktA := Vector.ofFn fun i => (bits (100 + i)).setWidth 8,
    pktP := Vector.ofFn fun i => (bits (200 + i)).setWidth 8, pktC := Vector.ofFn fun i => (bits (300 + i)).setWidth 8,
    pktF := Vector.ofFn fun i => (bits (400 + i)).setWidth 8, pktFlenBytes := (bits 8).setWidth 7,
    pktFlenBits := (bits 9).setWidth 10 }

/-- ISSUE (R162): the request is captured whole, `RSP_VALID <- 0`, `BUSY <- 1`, and the previous response
becomes unspecified. Its caller checks that `BUSY = 0`. -/
def State.issue (s : State) (r : Request) : State :=
  { s with req := r, rspValid := false, busy := true, rsp := freeResponse s.draws, draws := s.draws + 1 }

/-- READ (R162): returns the response latch to the host and changes nothing of the block (R50). Its caller
checks that `RSP_VALID = 1`. -/
def State.readOut (s : State) : State := { s with reads := s.rsp :: s.reads }

/-- Reset (R160): `BUSY <- 0`, `RSP_VALID <- 0`, the command in flight is abandoned, and the latches, which
become unspecified, hold the values they hold in State.reset (DESIGN CHOICE, unsafe: log 4). The host and what
it has read are not reset. -/
def State.resetBlock (s : State) : State :=
  { s with busy := State.reset.busy, req := State.reset.req, rspValid := State.reset.rspValid, rsp := State.reset.rsp }

/-- The schedule moves on to its next turn. -/
def State.nextTurn (s : State) : State := { s with schedule := s.schedule.tail }

/-- What the step at a state does, by whose turn it is (R162). -/
inductive Move where
  /-- No step is enabled: the block waits for the host. -/
  | idle
  /-- EXEC, from this state. -/
  | exec (s : State)
  /-- A step of the host, to this state. -/
  | host (s : State)
  /-- A READ that is not enabled (R164). -/
  | badRead
deriving DecidableEq, Repr

/-- Whose turn it is and what it does. ISSUE is enabled only when `BUSY = 0`: while it is 1 the host waits
and the block executes (R162). EXEC is enabled only when `BUSY = 1`. READ is enabled only when `RSP_VALID = 1`
(R162) and faults otherwise (R164). Reset may occur at any time (R160). With no turn left, a command in flight
is executed (weak fairness, R167), and otherwise nothing happens (log 1, log 2). -/
def nextMove (s : State) : Move :=
  match s.schedule with
  | [] => if s.busy then .exec s else .idle
  | .issue r :: _ => if s.busy then .exec s else .host (s.nextTurn.issue r)
  | .exec :: _ => if s.busy then .exec s.nextTurn else .host s.nextTurn
  | .read :: _ => if s.rspValid then .host s.nextTurn.readOut else .badRead
  | .reset :: _ => .host s.nextTurn.resetBlock

/-- A command word placed as if the host had just ISSUEd it with the lanes the latch holds: `REQ.CMD` is the
word, `BUSY = 1`, `RSP_VALID = 0`, and the next turn is the block's (log 10). -/
def State.placeCommand (s : State) (w : CmdWord) : State :=
  { s with req := { s.req with cmd := w }, busy := true, rspValid := false, schedule := .exec :: s.schedule }

end Sys2Proof.Machine
end

