-- ==== Sys2Proof/Machine/CrcEngine.lean ====
section
/-! DEFINITION. The bit-level CRC-16 engine and CRCUPD (40_crc_engine.md R80 to R85). -/

namespace Sys2Proof.Machine

/-- `shl1_16(c)`: one bit left, bit 15 discarded, bit 0 zero (R8). -/
def shl1 (c : Word16) : Word16 := c <<< 1

/-- One iteration of R80's loop: shift, and XOR with the polynomial where the top bit was set. -/
def crcShift (r : Word16) : Word16 := if r.msb then shl1 r ^^^ Config.crcPoly else shl1 r

/-- `k` iterations of R80's loop. -/
def crcShifts : Nat → Word16 → Word16
  | 0, r => r
  | k + 1, r => crcShifts k (crcShift r)

/-- `crc_update(c, d, k)` (R80), defined there for `k` from 1 to 8; the one command that takes `k` from a field
rejects every other count first (R83, log 14). -/
def crcUpdate (c : Word16) (d : Byte) (k : Nat) : Word16 := crcShifts k (c ^^^ inHighByte d)

/-- The CRC of a byte list from any seed, every byte folded in with 8 bits. -/
def crcFrom (seed : Word16) (s : List Byte) : Word16 := s.foldl (fun r b => crcUpdate r b 8) seed

/-- `crc16(s)`: from the seed CRC_INIT, with no final XOR (R81, R82). -/
def crc16 (s : List Byte) : Word16 := crcFrom Config.crcInit s

/-- `mask(k) = (0xFF << (8 - k)) & 0xFF`, the byte whose high `k` bits are 1 (R70, R84), for `k` from 1 to 8;
any larger `k` gives 0xFF (DESIGN CHOICE, log 14). -/
def maskHigh (k : Nat) : Byte := 0xFF#8 <<< (8 - k)

/-- `bitstep(r, b)`, one step of the bit-serial register (R85). -/
def bitStep (r : Word16) (b : Bool) : Word16 :=
  if r.msb ^^ b then shl1 r ^^^ Config.crcPoly else shl1 r

/-- The bit-serial CRC of a bit stream from a register value (R85). -/
def bitSerial (r : Word16) (bs : List Bool) : Word16 := bs.foldl bitStep r

/-- The bits of a byte in the order they are sent, bit 7 first (20_memory.md R43). -/
def byteBits (d : Byte) : List Bool := (List.range 8).map fun j => d.getLsbD (7 - j)

/-- The bit stream of a byte list (R43). -/
def streamBits (s : List Byte) : List Bool := s.flatMap byteBits

/-- EXEC CRCUPD (R83). -/
def execCrcupd (bits : Nat) (data : Byte) (crcin : Word16) (s : State) : Host.Outcome State Fault Refusal :=
  match bitcountStatus bits with
  | some st => .next (s.raise st)
  | none => .next (s.finishOk { Response.zero with crcOut := crcUpdate crcin data bits })

end Sys2Proof.Machine
end

