-- ==== Sys2Proof/Machine/Assembler.lean ====
section
/-! DEFINITION. The packet assembler: `build_packet` and ASSEMBLE (41_frame_assembler.md R100 to R112). -/

namespace Sys2Proof.Machine

/-- The preamble: 0xAA if bit 7 of the first address byte is set, else 0x55 (R102). DESIGN CHOICE: an empty address,
for which R111 defines no packet, gives 0x55, and no command reaches it (log 17). -/
def preamble (A : List Byte) : Byte := if (A.headD 0#8).msb then 0xAA#8 else 0x55#8

/-- The frame lanes: zeros, then the preamble, the address, the payload and the CRC field in place (R110, R102,
R103, R104, R106, as R111 writes them); outside the lengths of R111 see log 17. -/
def buildFrame (which : Config.Crc1Byte) (alen plen clen : Nat) (A P : List Byte) : Lanes 67 :=
  let f := memWrite (Vector.replicate 67 0#8) 0 [preamble A]
  let f := memWrite f 1 A
  let f := memWrite f (1 + alen) P
  memWrite f (crcOffset alen plen) (crcField which clen (crc16 (A ++ P)))

/-- The frame lanes as the source places them: payload and CRC bits "OR'ed into place" on the zeroed buffer
(R104, R106). R48 says it is the same frame. -/
def buildFrameOr (which : Config.Crc1Byte) (alen plen clen : Nat) (A P : List Byte) : Lanes 67 :=
  let f := memWrite (Vector.replicate 67 0#8) 0 [preamble A]
  let f := memWrite f 1 A
  let f := memOr f (1 + alen) P
  memOr f (crcOffset alen plen) (crcField which clen (crc16 (A ++ P)))

/-- `build_packet(alen, plen, clen, seq, noack, big, A, P)` (R111): every response field but STATUS. DESIGN CHOICE:
outside the lengths R111 defines it for, it is the same total function, and no command reaches it (log 17). -/
def buildPacket (which : Config.Crc1Byte) (alen plen clen : Nat) (seq : Byte) (noack big : Bool)
    (A P : List Byte) : Response :=
  let crc := crc16 (A ++ P)
  { Response.zero with
    crcOut := crc
    pktAlen := BitVec.ofNat 6 alen
    pktPlen := BitVec.ofNat 6 plen
    pktClen := BitVec.ofNat 2 clen
    pktSeq := seq
    pktNoack := noack
    pktBig := big
    pktA := memWrite (Vector.replicate 32 0#8) 0 A
    pktP := memWrite (Vector.replicate 32 0#8) 0 P
    pktC := memWrite (Vector.replicate 2 0#8) 0 (crcField which clen crc)
    pktF := buildFrame which alen plen clen A P
    pktFlenBytes := BitVec.ofNat 7 (frameLength alen plen clen)
    pktFlenBits := BitVec.ofNat 10 (8 * frameLength alen plen clen) }

/-- EXEC ASSEMBLE (R100); its reserved bit is the decoder's (R67). -/
def execAssemble (alen plen clen align : Nat) (noack big : Bool) (seq : Byte) (s : State) :
    Host.Outcome State Fault Refusal :=
  match lengthStatus alen plen clen align with
  | some st => .next (s.raise st)
  | none =>
    .next (s.finishOk (buildPacket Config.crc1Byte alen plen clen seq noack big
      (memRead s.req.aIn 0 alen) (memRead s.req.pIn 0 plen)))

end Sys2Proof.Machine
end

