-- ==== Sys2Proof/Machine/Parser.lean ====
section
/-! DEFINITION. The frame parser and PARSE (42_frame_parser.md R120 to R133). -/

namespace Sys2Proof.Machine

/-- The candidate address, `F_IN[1 .. ALEN]` (R120). -/
def candidateAddress (F : Lanes 127) (alen : Nat) : List Byte := memRead F 1 alen

/-- The candidate payload, `F_IN[1+ALEN .. ALEN+PLEN]` (R120). -/
def candidatePayload (F : Lanes 127) (alen plen : Nat) : List Byte := memRead F (1 + alen) plen

/-- The frame is accepted exactly when the recomputed CRC is the embedded one (R121 to R123). -/
def frameAccepted (which : Config.Crc1Byte) (F : Lanes 127) (alen plen clen : Nat) : Bool :=
  expectedCrc which clen (crc16 (candidateAddress F alen ++ candidatePayload F alen plen)) ==
    embeddedCrc clen F (crcOffset alen plen)

/-- EXEC PARSE (R126); its reserved bits are the decoder's (R67). On acceptance the packet is the one
`build_packet` makes from the extracted fields, the reserved fields zero (R124). -/
def execParse (alen plen clen align rawlen : Nat) (s : State) : Host.Outcome State Fault Refusal :=
  match parseStatus alen plen clen align rawlen with
  | some st => .next (s.raise st)
  | none =>
    if frameAccepted Config.crc1Byte s.req.fIn alen plen clen then
      .next (s.finishOk (buildPacket Config.crc1Byte alen plen clen 0#8 false false
        (candidateAddress s.req.fIn alen) (candidatePayload s.req.fIn alen plen)))
    else .next (s.raise .crcMismatch)

end Sys2Proof.Machine
end

