-- ==== Sys2Proof/Machine/Dispatch.lean ====
section
/-! DEFINITION. The meaning of each command, one arm per constructor of Instr (30_encoding.md R65). -/

namespace Sys2Proof.Machine

def exec (i : Instr) (s : State) : Host.Outcome State Fault Refusal :=
  match i with
  | .crcupd bits data crcin => Sys2Proof.Machine.execCrcupd bits data crcin s
  | .assemble alen plen clen align noack big seq => Sys2Proof.Machine.execAssemble alen plen clen align noack big seq s
  | .parse alen plen clen align rawlen => Sys2Proof.Machine.execParse alen plen clen align rawlen s

end Sys2Proof.Machine
end

