-- ==== Sys2Proof/Machine/Step.lean ====
section
/-! DEFINITION. One step of the machine: a step of the host or the block's EXEC (70_reset_and_hazards.md R162). -/

namespace Sys2Proof.Machine

/-- EXEC: the command in the request latch is decoded and run; a word that spells no command ends with
`ILLEGAL_COMMAND` (30_encoding.md R66, R67; 60_exceptions.md R142, R143). -/
def execStep (s : State) : Host.Outcome State Fault Refusal :=
  match decode s.req.cmd with
  | .command i => exec i s
  | .rejected why => s.rejectCommand why

/-- One atomic step (R162): what nextMove says the turn is. -/
def step (s : State) : Host.Outcome State Fault Refusal :=
  match nextMove s with
  | .idle => .next s
  | .exec s' => execStep s'
  | .host s' => .next s'
  | .badRead => .fault .readWithoutResponse

/-- The state in which the very next step is EXEC of this command word: the block fetches nothing (R28, R53), so
the word goes where ISSUE puts it (log 10). -/
def State.withFetchWord (s : State) (nbits w : Nat) : State := s.placeCommand (tableWord nbits w)

end Sys2Proof.Machine
end

