-- ==== Sys2Proof/Machine/Assembly.lean ====
section
/-! DEFINITION. The assembly syntax and the single-command pseudo-commands (30_encoding.md R69, R70).
A line is read from its characters to a mnemonic and named operands, and an assembler turns those into a
command, refusing an operand outside the range R69 shows. What R69 leaves open of the text is in log 13. -/

namespace Sys2Proof.Machine

/-- The mnemonics of R69, and the pseudo-commands of R70 that expand to one command. -/
inductive Mnemonic where
  | crcupd
  | assemble
  | parse
  | crcbyte
  | crcbits
deriving DecidableEq, Repr

/-- The operand names of R69. -/
inductive OperandName where
  | crc
  | data
  | bits
  | alen
  | plen
  | clen
  | align
  | seq
  | noack
  | big
  | rawlen
deriving DecidableEq, Repr

/-- A line of assembly: the mnemonic followed by `name=value` operands, in any order (R69). -/
structure AsmLine where
  mnemonic : Mnemonic
  operands : List (OperandName × Nat)
deriving DecidableEq, Repr

/-- The operands a mnemonic takes (R69, R70). -/
def Mnemonic.takes : Mnemonic → List OperandName
  | .crcupd => [.crc, .data, .bits]
  | .assemble => [.alen, .plen, .clen, .align, .seq, .noack, .big]
  | .parse => [.alen, .plen, .clen, .rawlen, .align]
  | .crcbyte => [.crc, .data]
  | .crcbits => [.crc, .data, .bits]

/-- A required operand, in its range (R69: "An assembler refuses an operand outside the range shown"). -/
def requiredOperand (ops : List (OperandName × Nat)) (name : OperandName) (lo hi : Nat) : Option Nat :=
  match ops.lookup name with
  | some v => if lo ≤ v ∧ v ≤ hi then some v else none
  | none => none

/-- An optional operand; omitted, it is 0 (R69). -/
def optionalOperand (ops : List (OperandName × Nat)) (name : OperandName) (hi : Nat) : Option Nat :=
  match ops.lookup name with
  | some v => if v ≤ hi then some v else none
  | none => some 0

/-- Every operand is one the mnemonic takes, and none is given twice (log 13). -/
def AsmLine.namesOk (l : AsmLine) : Bool :=
  l.operands.all (fun o => l.mnemonic.takes.contains o.1) && decide (l.operands.map Prod.fst).Nodup

/-- `crcbyte crc=c, data=d` (R70). -/
def crcbyte (c : Word16) (d : Byte) : Instr := .crcupd 8 d c

/-- `crcbits crc=c, data=d, bits=k`: the assembler masks (R70, R84). R70 defines it for `k` from 1 to 8,
and assembleLine refuses any other (log 14). -/
def crcbits (c : Word16) (d : Byte) (k : Nat) : Instr := .crcupd k (d &&& maskHigh k) c

/-- The command a line assembles to, or none where the assembler refuses it (R69, R70). -/
def assembleLine (l : AsmLine) : Option Instr :=
  if l.namesOk then
    match l.mnemonic with
    | .crcupd => do
      let c ← requiredOperand l.operands .crc 0 0xFFFF
      let d ← requiredOperand l.operands .data 0 0xFF
      let k ← requiredOperand l.operands .bits 1 8
      some (.crcupd k (BitVec.ofNat 8 d) (BitVec.ofNat 16 c))
    | .assemble => do
      let a ← requiredOperand l.operands .alen 1 32
      let p ← requiredOperand l.operands .plen 0 32
      let c ← requiredOperand l.operands .clen 1 2
      let al ← optionalOperand l.operands .align 0
      let q ← optionalOperand l.operands .seq 255
      let na ← optionalOperand l.operands .noack 1
      let bg ← optionalOperand l.operands .big 1
      some (.assemble a p c al (na == 1) (bg == 1) (BitVec.ofNat 8 q))
    | .parse => do
      let a ← requiredOperand l.operands .alen 1 32
      let p ← requiredOperand l.operands .plen 0 32
      let c ← requiredOperand l.operands .clen 1 2
      let r ← requiredOperand l.operands .rawlen 0 127
      let al ← optionalOperand l.operands .align 0
      some (.parse a p c al r)
    | .crcbyte => do
      let c ← requiredOperand l.operands .crc 0 0xFFFF
      let d ← requiredOperand l.operands .data 0 0xFF
      some (crcbyte (BitVec.ofNat 16 c) (BitVec.ofNat 8 d))
    | .crcbits => do
      let c ← requiredOperand l.operands .crc 0 0xFFFF
      let d ← requiredOperand l.operands .data 0 0xFF
      let k ← requiredOperand l.operands .bits 1 8
      some (crcbits (BitVec.ofNat 16 c) (BitVec.ofNat 8 d) k)
  else none

/-- The pieces of a text between the separator characters. -/
def splitAtChar (sep : Char) : List Char → List (List Char)
  | [] => [[]]
  | x :: xs =>
    if x = sep then [] :: splitAtChar sep xs
    else
      match splitAtChar sep xs with
      | [] => [[x]]
      | g :: gs => (x :: g) :: gs

/-- A text without the spaces around it. -/
def trimSpaces (t : List Char) : List Char :=
  ((t.dropWhile (· == ' ')).reverse.dropWhile (· == ' ')).reverse

/-- The value of a digit in the base. -/
def digitValue (base : Nat) (c : Char) : Option Nat :=
  let n := c.toNat
  let v :=
    if 48 ≤ n ∧ n ≤ 57 then n - 48
    else if 97 ≤ n ∧ n ≤ 102 then n - 87
    else if 65 ≤ n ∧ n ≤ 70 then n - 55
    else base
  if v < base then some v else none

/-- The value of a run of digits in the base, read from the left after the value `acc`. -/
def digitsValue (base acc : Nat) : List Char → Option Nat
  | [] => some acc
  | c :: cs =>
    match digitValue base c with
    | some v => digitsValue base (acc * base + v) cs
    | none => none

/-- A number in decimal or `0x` hexadecimal (R69), of at least one digit. -/
def numberValue : List Char → Option Nat
  | [] => none
  | '0' :: 'x' :: c :: cs => digitsValue 16 0 (c :: cs)
  | c :: cs => digitsValue 10 0 (c :: cs)

/-- The mnemonic a word names. -/
def mnemonicNamed (t : List Char) : Option Mnemonic :=
  if t = ['c', 'r', 'c', 'u', 'p', 'd'] then some .crcupd
  else if t = ['a', 's', 's', 'e', 'm', 'b', 'l', 'e'] then some .assemble
  else if t = ['p', 'a', 'r', 's', 'e'] then some .parse
  else if t = ['c', 'r', 'c', 'b', 'y', 't', 'e'] then some .crcbyte
  else if t = ['c', 'r', 'c', 'b', 'i', 't', 's'] then some .crcbits
  else none

/-- The operand a word names. -/
def operandNamed (t : List Char) : Option OperandName :=
  if t = ['c', 'r', 'c'] then some .crc
  else if t = ['d', 'a', 't', 'a'] then some .data
  else if t = ['b', 'i', 't', 's'] then some .bits
  else if t = ['a', 'l', 'e', 'n'] then some .alen
  else if t = ['p', 'l', 'e', 'n'] then some .plen
  else if t = ['c', 'l', 'e', 'n'] then some .clen
  else if t = ['a', 'l', 'i', 'g', 'n'] then some .align
  else if t = ['s', 'e', 'q'] then some .seq
  else if t = ['n', 'o', 'a', 'c', 'k'] then some .noack
  else if t = ['b', 'i', 'g'] then some .big
  else if t = ['r', 'a', 'w', 'l', 'e', 'n'] then some .rawlen
  else none

/-- One `name=value` operand (R69). -/
def readOperand (t : List Char) : Option (OperandName × Nat) :=
  match splitAtChar '=' t with
  | [name, value] => do
    let n ← operandNamed (trimSpaces name)
    let v ← numberValue (trimSpaces value)
    some (n, v)
  | _ => none

/-- A line of assembly read from its characters (R69). -/
def readLine (t : List Char) : Option AsmLine := do
  let t := trimSpaces t
  let m ← mnemonicNamed (t.takeWhile (· != ' '))
  let ops ← (splitAtChar ',' (t.dropWhile (· != ' '))).mapM readOperand
  some ⟨m, ops⟩

/-- The command a line of text assembles to (R69, R70). -/
def assembleText (t : List Char) : Option Instr := (readLine t).bind assembleLine

end Sys2Proof.Machine
end

