-- ==== Sys2Proof/Machine/Platform.lean ====
section
/-! DEFINITION. Several instances of the block on one platform (60_exceptions.md R148). -/

namespace Sys2Proof.Machine

/-- Any number of instances, each with its own state (R148); the list's positions are the model's way to name
them, since no instance identifier exists (log 16). -/
abbrev Platform := List State

/-- Instance `k` takes a step and the others none (R148: no shared state, no inter-instance signal). -/
def stepAt (p : Platform) (k : Nat) : Option (Host.Outcome Platform Fault Refusal) :=
  match p[k]? with
  | none => none
  | some s =>
    match step s with
    | .next t => some (.next (p.set k t))
    | .fault r => some (.fault r)
    | .refused r => some (.refused r)

end Sys2Proof.Machine
end

