-- ==== Sys2Proof/Machine/HostProgram.lean ====
section
/-! DEFINITION. Host programs: what a host does with ISSUE, EXEC and READ (30_encoding.md R70, R71; 42_frame_parser.md
R129). `crcseq` and `tryparse` chain results between commands, which the block never does (R71, R90), so they
are functions of the host that run the machine's own step. -/

namespace Sys2Proof.Machine

/-- `k` steps, stopping at the first fault or refusal. -/
def stepN : Nat → State → Host.Outcome State Fault Refusal
  | 0, s => .next s
  | k + 1, s =>
    match step s with
    | .next t => stepN k t
    | .fault r => .fault r
    | .refused r => .refused r

/-- One whole command of the host: ISSUE, EXEC, READ (R162). If a command is in flight the host first waits for
it, which takes the one step EXEC. The answer is the response read and the state after it. -/
def call (r : Request) (s : State) : Option (Response × State) :=
  match stepN (if s.busy then 4 else 3) { s with schedule := [.issue r, .exec, .read] } with
  | .next t => t.reads.head?.map fun rsp => (rsp, t)
  | _ => none

/-- A request of a command alone; the lanes it does not list are don't-care (R69) and hold 0 (log 15). -/
def wordRequest (i : Instr) : Request := { Request.zero with cmd := encode i }

/-- `crcseq` from a CRC already reached: one CRCUPD with 8 bits per byte, each `CRC_OUT` the next `CRCIN`
(R70, R166). It stops where a command does not end with OK. -/
def crcseqFrom (c : Word16) : List Byte → State → Option (Word16 × State)
  | [], s => some (c, s)
  | b :: bs, s =>
    match call (wordRequest (.crcupd 8 b c)) s with
    | some (rsp, t) => if rsp.status = Status.ok.code then crcseqFrom rsp.crcOut bs t else none
    | none => none

/-- `crcseq s` (R70): from 0xFFFF; for no byte, no command. -/
def crcseq (bytes : List Byte) (s : State) : Option (Word16 × State) := crcseqFrom Config.crcInit bytes s

/-- The request of one try of `tryparse`: `parse alen=a, plen=p, clen=c, rawlen=r` over the raw buffer (R70).
DESIGN CHOICE: operands outside R69's ranges, whose line R69's assembler refuses, are issued all the same and
the status they end with decides the try (inside the field widths always a failed one); past a field's width they
are taken modulo it (log 15). -/
def tryRequest (alen clen rawlen : Nat) (F : Lanes 127) (plen : Nat) : Request :=
  { wordRequest (.parse alen plen clen 0 rawlen) with fIn := F }

/-- The tries of `tryparse` over the payload lengths still to come, stopping after the first that ends with OK
(R70, R129). The answer is that length and its response, or none where every try failed, and the state. -/
def tryparseOver (alen clen rawlen : Nat) (F : Lanes 127) : List Nat → State → Option (Option (Nat × Response) × State)
  | [], s => some (none, s)
  | p :: ps, s =>
    match call (tryRequest alen clen rawlen F p) s with
    | some (rsp, t) =>
      if rsp.status = Status.ok.code then some (some (p, rsp), t) else tryparseOver alen clen rawlen F ps t
    | none => none

/-- `tryparse alen=a, clen=c, rawlen=r, plen in [p0..p1]` (R70). -/
def tryparse (alen clen rawlen : Nat) (F : Lanes 127) (p0 p1 : Nat) (s : State) :
    Option (Option (Nat × Response) × State) :=
  tryparseOver alen clen rawlen F (List.range' p0 (p1 + 1 - p0)) s

end Sys2Proof.Machine
end

