-- ==== Sys2Proof/Safety.lean ====
section
/-! DEFINITION. The terms claims use: what a response says, what a good run is (60_exceptions.md R141,
93_implementation_defined.md), and the invariant of the machine. -/

namespace Sys2Proof.Safety

open Sys2Proof.Machine

/-- The host's masking duty before a CRCUPD with fewer than 8 bits: the low `8 - k` bits of DATA are zero
(40_crc_engine.md R84, 70_reset_and_hazards.md R166). -/
def masked (k : Nat) (d : Byte) : Prop := d &&& maskHigh k = d

/-- The state after an EXEC that ends with this response (70_reset_and_hazards.md R162): the response latch is
written whole, `RSP_VALID` is 1, `BUSY` is 0, and nothing else changes. -/
def endsWith (s : State) (r : Response) : State := { s with busy := false, rspValid := true, rsp := r }

/-- The response of a failing command: its code in STATUS, every other field and lane 0 (60_exceptions.md R143). -/
def failure (code : BitVec 4) : Response := { Response.zero with status := code }

/-- The lanes of an array from lane `lo`, `count` of them, in increasing order (00_scope.md R8). -/
def lanesFrom {n : Nat} (L : Lanes n) (lo count : Nat) : List Byte := (List.range count).map fun j => laneAt L (lo + j)

/-- The loop of R80 over natural numbers below 65536: double modulo 65536, and where the top bit was set
exclusive-or with 0x1021. -/
def engineLoop : Nat → Nat → Nat
  | 0, r => r
  | k + 1, r => engineLoop k (if 32768 ≤ r then (2 * r % 65536) ^^^ 0x1021 else 2 * r % 65536)

/-- The status codes each command can end with at EXEC, `ILLEGAL_COMMAND` apart, which is a word's and not a
command's (R140, R142; the rows of spec/opcode_table.json). -/
def statusCodes : Instr → List (BitVec 4)
  | .crcupd _ _ _ => [0#4, 4#4]
  | .assemble _ _ _ _ _ _ _ => [0#4, 6#4, 2#4, 3#4]
  | .parse _ _ _ _ _ => [0#4, 6#4, 2#4, 3#4, 5#4, 1#4]

/-- The response EXEC gives to a request: a function of the request alone (10_state.md R21). -/
def responseOf (r : Request) : Response :=
  match execStep { State.reset with req := r } with
  | .next t => t.rsp
  | _ => Response.zero

/-- The treatment of a response's status code; a code that is never produced has none (R140, R141). -/
def treatmentOf (r : Response) : Option Treatment := (Status.ofCode? r.status).map Status.treatment

/-- A state a claim may rest on: the response held, if any, is a result or a clean rejection (R141; "no fault
recorded and no refusal", 93_implementation_defined.md). -/
def goodState (s : State) : Bool :=
  !s.rspValid || treatmentOf s.rsp == some .result || treatmentOf s.rsp == some .cleanRejection

/-- A good run of `k` steps: every step answers a next state and every state on the way is good. -/
def goodRun : Nat → State → Bool
  | 0, s => goodState s
  | k + 1, s =>
    goodState s &&
      match step s with
      | .next t => goodRun k t
      | _ => false

/-- A lane array holds this list in its first lanes and zero in every other lane (10_state.md R23, R25). -/
def holdsThenZero {n : Nat} (L : Lanes n) (bytes : List Byte) : Prop :=
  ∀ i, i < n → laneAt L i = (bytes[i]?).getD 0#8

/-- The preamble an address selects: 0xAA for a first byte of 0x80 or above, else 0x55 (41_frame_assembler.md R100,
R102); of an empty address 0x55 (log 17). -/
def preambleFor (A : List Byte) : Byte := if 128 ≤ (A.headD 0#8).toNat then 0xAA#8 else 0x55#8

/-- The bytes of a CRC field of `clen` bytes, high byte first; a 1-byte field holds the high byte (R44, R106);
of any `clen` but 2 one byte (log 17). -/
def crcBytes (clen : Nat) (crc : Word16) : List Byte :=
  if clen = 2 then [BitVec.ofNat 8 (crc.toNat / 256), BitVec.ofNat 8 (crc.toNat % 256)]
  else [BitVec.ofNat 8 (crc.toNat / 256)]

/-- The packet record of an OK response for an address and a payload (R23 to R25, R101 to R111). -/
structure PacketRecord (clen : Nat) (seq : Byte) (noack big : Bool)
    (A P : List Byte) (r : Response) : Prop where
  statusIs : r.status = Status.ok.code
  crcOutIs : r.crcOut = crc16 (A ++ P)
  alenIs : r.pktAlen.toNat = A.length
  plenIs : r.pktPlen.toNat = P.length
  clenIs : r.pktClen.toNat = clen
  seqIs : r.pktSeq = seq
  noackIs : r.pktNoack = noack
  bigIs : r.pktBig = big
  addressIs : holdsThenZero r.pktA A
  payloadIs : holdsThenZero r.pktP P
  crcIs : holdsThenZero r.pktC (crcBytes clen (crc16 (A ++ P)))
  frameIs : holdsThenZero r.pktF ([preambleFor A] ++ A ++ P ++ crcBytes clen (crc16 (A ++ P)))
  flenBytesIs : r.pktFlenBytes.toNat = 1 + A.length + P.length + clen
  flenBitsIs : r.pktFlenBits.toNat = 8 * (1 + A.length + P.length + clen)

/-- The Packet invariants of 10_state.md R24, and R25's zero lanes. -/
structure PacketInvariants (r : Response) : Prop where
  flenBytes : r.pktFlenBytes.toNat = 1 + r.pktAlen.toNat + r.pktPlen.toNat + r.pktClen.toNat
  clen : r.pktClen.toNat = 1 ∨ r.pktClen.toNat = 2
  plen : r.pktPlen.toNat ≤ 32
  alen : 1 ≤ r.pktAlen.toNat ∧ r.pktAlen.toNat ≤ 32
  flenBits : r.pktFlenBits.toNat = 8 * r.pktFlenBytes.toNat
  zeroA : ∀ i, r.pktAlen.toNat ≤ i → laneAt r.pktA i = 0#8
  zeroP : ∀ i, r.pktPlen.toNat ≤ i → laneAt r.pktP i = 0#8
  zeroC : ∀ i, r.pktClen.toNat ≤ i → laneAt r.pktC i = 0#8
  zeroF : ∀ i, r.pktFlenBytes.toNat ≤ i → laneAt r.pktF i = 0#8

/-- The invariant of the machine: a command in flight and a valid response exclude each other (R162); a valid
response is the one the request latch's command gives (R21, R50); and whatever the host has read is the response
to some request (R26, R162). -/
structure Inv (s : State) : Prop where
  exclusive : s.busy = true → s.rspValid = false
  response : s.rspValid = true → s.rsp = responseOf s.req
  reads : ∀ r ∈ s.reads, ∃ q : Request, r = responseOf q

/-- Two lane arrays hold the same bytes from lane `lo` up to lane `hi - 1`. -/
def agreeOn {n : Nat} (lo hi : Nat) (L M : Lanes n) : Prop := ∀ i, lo ≤ i → i < hi → laneAt L i = laneAt M i

/-- The lanes of a raw buffer that starts with this response's frame (42_frame_parser.md R130). -/
def holdsFrame (F : Lanes 127) (r : Response) : Prop :=
  ∀ i, i < r.pktFlenBytes.toNat → laneAt F i = laneAt r.pktF i

/-- One bit of one byte of a list flipped: bit `b` of byte `i`. -/
def flipBit (s : List Byte) (i b : Nat) : List Byte := s.set i (((s[i]?).getD 0#8) ^^^ (1#8 <<< b))

/-- `x^n mod (x^16 + x^12 + x^5 + 1)`, by `n` multiplications by x from 1 (R88). -/
def xPow (n : Nat) : Word16 := crcShifts n 1#16

end Sys2Proof.Safety
end

