-- ==== Sys2Proof/Certificates/Slice0/Obligations.lean ====
section
/-! DEFINITION. The statements for the provers. Each docstring names the rule of spec/ it formalises. -/

open Sys2Proof Sys2Proof.Machine Sys2Proof.Safety

/-! ### Encoding -/

/-- Words written out from R61 to R63 (95_test_vectors.md V-CRC-2, V-ASM-1, V-ASM-7, V-PRS-1, V-ILL-1, V-ILL-7,
V-ILL-8) decode to the commands they stand for. -/
def Obligations.WorkedWordsDecode : Prop :=
  decode 0xFFFF3181#32 = .command (.crcupd 8 0x31#8 0xFFFF#16) ∧
  decode 0x00020832#32 = .command (.assemble 3 2 2 0 false false 0#8) ∧
  decode 0x5A620832#32 = .command (.assemble 3 2 2 0 true true 0x5A#8) ∧
  decode 0x01020833#32 = .command (.parse 3 2 2 0 8) ∧
  decode 0x00000000#32 = .rejected (.reservedOpcode 0) ∧
  decode 0x00820832#32 = .rejected .reservedBits ∧
  decode 0x11020833#32 = .rejected .reservedBits

/-- Every field of a decoded command is the unsigned value of its bit slice (R61 to R64), said by division on
the word's number. -/
def Obligations.DecodeReadsEveryFieldUnsigned : Prop :=
  ∀ w : CmdWord,
    (∀ bits data crcin, decode w = .command (.crcupd bits data crcin) →
      bits = w.toNat / 2 ^ 4 % 2 ^ 4 ∧ data.toNat = w.toNat / 2 ^ 8 % 2 ^ 8 ∧
      crcin.toNat = w.toNat / 2 ^ 16 % 2 ^ 16) ∧
    (∀ alen plen clen align noack big seq, decode w = .command (.assemble alen plen clen align noack big seq) →
      alen = w.toNat / 2 ^ 4 % 2 ^ 6 ∧ plen = w.toNat / 2 ^ 10 % 2 ^ 6 ∧ clen = w.toNat / 2 ^ 16 % 2 ^ 2 ∧
      align = w.toNat / 2 ^ 18 % 2 ^ 3 ∧ noack.toNat = w.toNat / 2 ^ 21 % 2 ∧ big.toNat = w.toNat / 2 ^ 22 % 2 ∧
      seq.toNat = w.toNat / 2 ^ 24 % 2 ^ 8) ∧
    (∀ alen plen clen align rawlen, decode w = .command (.parse alen plen clen align rawlen) →
      alen = w.toNat / 2 ^ 4 % 2 ^ 6 ∧ plen = w.toNat / 2 ^ 10 % 2 ^ 6 ∧ clen = w.toNat / 2 ^ 16 % 2 ^ 2 ∧
      align = w.toNat / 2 ^ 18 % 2 ^ 3 ∧ rawlen = w.toNat / 2 ^ 21 % 2 ^ 7)

/-- R65: the opcode map as match and mask; a word that fits no row is reserved, and EXEC ends it with
`ILLEGAL_COMMAND` (7). -/
def Obligations.DecodeAcceptsExactlyTheOpcodeMap : Prop :=
  ∀ w : CmdWord,
    ((∃ bits data crcin, decode w = .command (.crcupd bits data crcin)) ↔ w &&& 0x0000000F#32 = 0x00000001#32) ∧
    ((∃ alen plen clen align noack big seq, decode w = .command (.assemble alen plen clen align noack big seq)) ↔
      w &&& 0x0080000F#32 = 0x00000002#32) ∧
    ((∃ alen plen clen align rawlen, decode w = .command (.parse alen plen clen align rawlen)) ↔
      w &&& 0xF000000F#32 = 0x00000003#32) ∧
    ((∃ why, decode w = .rejected why) ↔
      w &&& 0x0000000F#32 ≠ 0x00000001#32 ∧ w &&& 0x0080000F#32 ≠ 0x00000002#32 ∧
      w &&& 0xF000000F#32 ≠ 0x00000003#32) ∧
    (∀ (why : DecodeReject) (s : State), decode w = .rejected why → s.req.cmd = w →
      execStep s = .next (endsWith s (failure 7#4)))

/-- R61 to R63: no bit of an encoding is dropped. -/
def Obligations.DecodeOfEncodeIsTheCommand : Prop :=
  ∀ i : Instr, i.WellFormed → decode (encode i) = .command i

/-- R61 to R63, the other direction: a command has one word, and decoding gives only well-formed commands. -/
def Obligations.EncodeOfDecodeIsTheWord : Prop :=
  ∀ (w : CmdWord) (i : Instr), decode w = .command i → i.WellFormed ∧ encode i = w

/-- R66, R67: EXEC of a reserved opcode, or of a legal opcode with a reserved bit of its format set, ends with
`ILLEGAL_COMMAND` (7) and has no other effect. -/
def Obligations.ReservedWordsEndIllegal : Prop :=
  ∀ s : State,
    (let op := s.req.cmd.toNat % 16
     op = 0 ∨ 4 ≤ op ∨ (op = 2 ∧ s.req.cmd.toNat / 2 ^ 23 % 2 = 1) ∨ (op = 3 ∧ s.req.cmd.toNat / 2 ^ 28 ≠ 0)) →
    execStep s = .next (endsWith s (failure 7#4))

/-! ### The CRC engine -/

/-- R80: `crc_update` for a bit count from 1 to 8 is the loop of the rule, over natural numbers. -/
def Obligations.CrcUpdateIsTheRuleLoop : Prop :=
  ∀ (c : Word16) (d : Byte) (k : Nat), 1 ≤ k → k ≤ 8 →
    (crcUpdate c d k).toNat = engineLoop k (c.toNat ^^^ (d.toNat * 256))

/-- R81, first half: the CRC of no byte is the seed, and each further byte is folded in with 8 bits. -/
def Obligations.CrcOfBytesFoldsEachByte : Prop :=
  crc16 [] = 0xFFFF#16 ∧ ∀ (s : List Byte) (b : Byte), crc16 (s ++ [b]) = crcUpdate (crc16 s) b 8

/-- R86: the check value of the ASCII bytes "123456789", which the spec gives as derived. -/
def Obligations.CrcCheckValue : Prop :=
  crc16 [0x31#8, 0x32#8, 0x33#8, 0x34#8, 0x35#8, 0x36#8, 0x37#8, 0x38#8, 0x39#8] = 0x29B1#16

/-- R85: the engine is the bit-serial CRC register, for a masked byte of `k` bits, for a whole byte, for a byte
list, and for a message truncated to whole bytes and `k` bits. -/
def Obligations.EngineIsBitSerial : Prop :=
  (∀ (c : Word16) (d : Byte) (k : Nat), 1 ≤ k → k ≤ 8 →
    crcUpdate c (d &&& maskHigh k) k = bitSerial c ((byteBits d).take k)) ∧
  (∀ (c : Word16) (d : Byte), crcUpdate c d 8 = bitSerial c (byteBits d)) ∧
  (∀ s : List Byte, crc16 s = bitSerial 0xFFFF#16 (streamBits s)) ∧
  (∀ (s : List Byte) (d : Byte) (k : Nat), 1 ≤ k → k ≤ 8 →
    crcUpdate (crc16 s) (d &&& maskHigh k) k =
      bitSerial 0xFFFF#16 ((streamBits (s ++ [d])).take (8 * s.length + k)))

/-- R87: without masking, the low bits of the byte stay in the high part of the result; with the rule's
example. -/
def Obligations.UnmaskedBitsStayInTheResult : Prop :=
  (∀ (c : Word16) (d : Byte) (k : Nat), 1 ≤ k → k < 8 →
    crcUpdate c d k = crcUpdate c (d &&& maskHigh k) k ^^^ inHighByte ((d &&& ~~~(maskHigh k)) <<< k)) ∧
  crcUpdate 0xEDD1#16 0xB5#8 4 = 0xDDB5#16 ∧ crcUpdate 0xEDD1#16 0xB0#8 4 = 0x8DB5#16

/-- R88, its first sentence: linearity. -/
def Obligations.CrcIsLinear : Prop :=
  ∀ s e : List Byte, s.length = e.length →
    crc16 (List.zipWith (fun a b => a ^^^ b) s e) = crc16 s ^^^ crcFrom 0x0000#16 e

/-- R88, its second sentence: a single flipped bit `d` places before the end leaves `x^(d+16)` modulo the
polynomial, which is never 0, with a nonzero high byte up to `d = 560` and a nonzero low byte up to 568. -/
def Obligations.SingleBitErrorRemainder : Prop :=
  (∀ n i b : Nat, i < n → b < 8 →
    crcFrom 0x0000#16 (flipBit (List.replicate n 0#8) i b) = xPow (8 * (n - 1 - i) + b + 16)) ∧
  (∀ d : Nat, xPow (d + 16) ≠ 0#16) ∧
  (∀ d : Nat, d ≤ 560 → hiByte (xPow (d + 16)) ≠ 0#8) ∧
  (∀ d : Nat, d ≤ 568 → loByte (xPow (d + 16)) ≠ 0#8)

/-- R88, its last sentence: over at most 64 bytes, a single flipped bit changes both bytes of the CRC. -/
def Obligations.SingleBitFlipChangesBothCrcBytes : Prop :=
  ∀ (s : List Byte) (i b : Nat), s.length ≤ 64 → i < s.length → b < 8 →
    hiByte (crc16 (flipBit s i b)) ≠ hiByte (crc16 s) ∧ loByte (crc16 (flipBit s i b)) ≠ loByte (crc16 s)

/-- R89: the residue of a byte list followed by its CRC is zero, and so is that of an assembled frame's bytes 1
to `FL - 1` where the CRC field has 2 bytes. -/
def Obligations.ResidueIsZero : Prop :=
  (∀ s : List Byte, crc16 (s ++ [hiByte (crc16 s), loByte (crc16 s)]) = 0x0000#16) ∧
  (∀ (alen plen align : Nat) (noack big : Bool) (seq : Byte) (s t : State),
    Instr.LengthsAdmitted alen plen 2 align → exec (.assemble alen plen 2 align noack big seq) s = .next t →
    crc16 (lanesFrom t.rsp.pktF 1 (alen + plen + 2)) = 0x0000#16)

/-! ### CRCUPD -/

/-- R83: CRCUPD with a bit count from 1 to 8 completes with OK, the engine's value in `CRC_OUT` and every packet
field 0 (R25); with any other it ends with `BAD_BITCOUNT` (4) and every other field 0. Nothing else changes. -/
def Obligations.CrcupdResult : Prop :=
  ∀ (bits : Nat) (data : Byte) (crcin : Word16) (s : State),
    (1 ≤ bits ∧ bits ≤ 8 → exec (.crcupd bits data crcin) s =
      .next (endsWith s { Response.zero with status := 0#4, crcOut := crcUpdate crcin data bits })) ∧
    (bits = 0 ∨ 9 ≤ bits → exec (.crcupd bits data crcin) s = .next (endsWith s (failure 4#4)))

/-- R90: the result of a CRCUPD depends on its command word alone, whatever the rest of the state holds. -/
def Obligations.CrcupdDependsOnItsWordOnly : Prop :=
  ∀ s t : State, s.req.cmd = t.req.cmd → s.req.cmd.toNat % 16 = 1 →
    ∃ r, execStep s = .next (endsWith s r) ∧ execStep t = .next (endsWith t r)

/-- R84, R166: where the host has masked the byte, CRCUPD folds in exactly its high `k` bits; and the command that
R70's `crcbits` assembles from any byte does so. -/
def Obligations.MaskedByteFoldsItsHighBits : Prop :=
  ∀ (c : Word16) (d : Byte) (k : Nat) (s : State), 1 ≤ k → k ≤ 8 →
    (masked k d → exec (.crcupd k d c) s =
      .next (endsWith s { Response.zero with status := 0#4, crcOut := bitSerial c ((byteBits d).take k) })) ∧
    exec (crcbits c d k) s =
      .next (endsWith s { Response.zero with status := 0#4, crcOut := bitSerial c ((byteBits d).take k) })

/-! ### ASSEMBLE -/

/-- R100 to R111: with admitted lengths and alignment offset 0, ASSEMBLE completes with OK; the packet record is
that of the address `A_IN[0..ALEN-1]` and the payload `P_IN[0..PLEN-1]`: preamble, address, payload and CRC in
the frame, every unused lane 0, the reserved fields echoed; and nothing else of the state changes. -/
def Obligations.AssembleBuildsThePacket : Prop :=
  ∀ (alen plen clen align : Nat) (noack big : Bool) (seq : Byte) (s : State),
    Instr.LengthsAdmitted alen plen clen align →
    ∃ r, exec (.assemble alen plen clen align noack big seq) s = .next (endsWith s r) ∧
      PacketRecord clen seq noack big (lanesFrom s.req.aIn 0 alen) (lanesFrom s.req.pIn 0 plen) r

/-- R100, its checks in order: `ALIGN_UNSUPPORTED` (6), `PAYLOAD_TOO_LONG` (2), `BAD_LENGTH` (3). -/
def Obligations.AssembleRejectsInOrder : Prop :=
  ∀ (alen plen clen align : Nat) (noack big : Bool) (seq : Byte) (s : State),
    let i : Instr := .assemble alen plen clen align noack big seq
    (align ≠ 0 → exec i s = .next (endsWith s (failure 6#4))) ∧
    (align = 0 → 33 ≤ plen → exec i s = .next (endsWith s (failure 2#4))) ∧
    (align = 0 → plen ≤ 32 → (alen = 0 ∨ 33 ≤ alen) → exec i s = .next (endsWith s (failure 3#4))) ∧
    (align = 0 → plen ≤ 32 → 1 ≤ alen → alen ≤ 32 → (clen = 0 ∨ 3 ≤ clen) →
      exec i s = .next (endsWith s (failure 3#4)))

/-- R107: the reserved fields are copied to the record and change nothing else: two ASSEMBLEs that differ only in
them give responses that differ only in them. -/
def Obligations.ReservedFieldsOnlyEcho : Prop :=
  ∀ (alen plen clen align : Nat) (noack big noack' big' : Bool) (seq seq' : Byte) (s : State),
    ∃ r r', exec (.assemble alen plen clen align noack big seq) s = .next (endsWith s r) ∧
      exec (.assemble alen plen clen align noack' big' seq') s = .next (endsWith s r') ∧
      { r with pktSeq := r'.pktSeq, pktNoack := r'.pktNoack, pktBig := r'.pktBig } = r' ∧
      (r.status = 0#4 → r.pktSeq = seq ∧ r.pktNoack = noack ∧ r.pktBig = big)

/-- R112: the response of ASSEMBLE depends on `A_IN[0..ALEN-1]` and `P_IN[0..PLEN-1]` and on no other lane, and
on no lane at all where a length is not admitted. -/
def Obligations.AssembleReadsOnlyItsLanes : Prop :=
  ∀ (alen plen clen align : Nat) (noack big : Bool) (seq : Byte) (s t : State),
    (Instr.LengthsAdmitted alen plen clen align →
      agreeOn 0 alen s.req.aIn t.req.aIn ∧ agreeOn 0 plen s.req.pIn t.req.pIn) →
    ∃ r, exec (.assemble alen plen clen align noack big seq) s = .next (endsWith s r) ∧
      exec (.assemble alen plen clen align noack big seq) t = .next (endsWith t r)

/-- R48: placing payload and CRC bits by OR on the zeroed frame has the same effect as writing the bytes. -/
def Obligations.OrPlacementIsWriting : Prop :=
  ∀ (which : Config.Crc1Byte) (alen plen clen align : Nat) (A P : List Byte),
    Instr.LengthsAdmitted alen plen clen align → A.length = alen → P.length = plen →
    buildFrameOr which alen plen clen A P = buildFrame which alen plen clen A P

/-! ### PARSE -/

/-- R120 to R125: with admitted lengths, alignment offset 0 and enough raw bytes, PARSE accepts exactly when the
`CLEN` bytes after the payload are the CRC of address and payload, high byte first. Accepting, it completes with
OK and the packet record of the extracted fields, the reserved fields zero; else it ends with `CRC_MISMATCH` (1)
and every other field 0. Nothing else of the state changes. -/
def Obligations.ParseAcceptsExactlyTheRightCrc : Prop :=
  ∀ (alen plen clen align rawlen : Nat) (s : State),
    Instr.LengthsAdmitted alen plen clen align → 1 + alen + plen + clen ≤ rawlen →
    let F := s.req.fIn
    let A := lanesFrom F 1 alen
    let P := lanesFrom F (1 + alen) plen
    let crc := crc16 (A ++ P)
    let right := laneAt F (1 + alen + plen) = hiByte crc ∧ (clen = 2 → laneAt F (2 + alen + plen) = loByte crc)
    (right → ∃ r, exec (.parse alen plen clen align rawlen) s = .next (endsWith s r) ∧
      PacketRecord clen 0#8 false false A P r) ∧
    (¬ right → exec (.parse alen plen clen align rawlen) s = .next (endsWith s (failure 1#4)))

/-- R126, its checks in order: `ALIGN_UNSUPPORTED` (6), `PAYLOAD_TOO_LONG` (2), `BAD_LENGTH` (3),
`SHORT_BUFFER` (5), all before any lane is read. -/
def Obligations.ParseRejectsInOrder : Prop :=
  ∀ (alen plen clen align rawlen : Nat) (s : State),
    let i : Instr := .parse alen plen clen align rawlen
    (align ≠ 0 → exec i s = .next (endsWith s (failure 6#4))) ∧
    (align = 0 → 33 ≤ plen → exec i s = .next (endsWith s (failure 2#4))) ∧
    (align = 0 → plen ≤ 32 → (alen = 0 ∨ 33 ≤ alen) → exec i s = .next (endsWith s (failure 3#4))) ∧
    (align = 0 → plen ≤ 32 → 1 ≤ alen → alen ≤ 32 → (clen = 0 ∨ 3 ≤ clen) →
      exec i s = .next (endsWith s (failure 3#4))) ∧
    (Instr.LengthsAdmitted alen plen clen align → rawlen < 1 + alen + plen + clen →
      exec i s = .next (endsWith s (failure 5#4)))

/-- R127, R128: PARSE reads `F_IN[1..FL-1]` and no other lane: not the preamble byte, not the bytes after the
frame, not `A_IN`, not `P_IN`; and no lane at all where a check fails. -/
def Obligations.ParseReadsOnlyItsLanes : Prop :=
  ∀ (alen plen clen align rawlen : Nat) (s t : State),
    (Instr.LengthsAdmitted alen plen clen align → 1 + alen + plen + clen ≤ rawlen →
      agreeOn 1 (1 + alen + plen + clen) s.req.fIn t.req.fIn) →
    ∃ r, exec (.parse alen plen clen align rawlen) s = .next (endsWith s r) ∧
      exec (.parse alen plen clen align rawlen) t = .next (endsWith t r)

/-- R130: what ASSEMBLE built, PARSE with the same lengths gives back, whatever else the raw buffer and the state
hold. -/
def Obligations.AssembleThenParseRoundTrip : Prop :=
  ∀ (alen plen clen align rawlen : Nat) (noack big : Bool) (seq : Byte) (s t u : State),
    Instr.LengthsAdmitted alen plen clen align →
    exec (.assemble alen plen clen align noack big seq) s = .next t →
    holdsFrame u.req.fIn t.rsp → 1 + alen + plen + clen ≤ rawlen →
    ∃ r, exec (.parse alen plen clen align rawlen) u = .next (endsWith u r) ∧ r.status = 0#4 ∧
      (∀ i, i < alen → laneAt r.pktA i = laneAt s.req.aIn i) ∧
      (∀ j, j < plen → laneAt r.pktP j = laneAt s.req.pIn j)

/-- U9 of 93_implementation_defined.md: for either value of the parameter CRC1_BYTE, the parser's comparison
accepts the frame the assembler builds with the same value. -/
def Obligations.EitherCrcByteChoiceRoundTrips : Prop :=
  ∀ (which : Config.Crc1Byte) (alen plen clen align : Nat) (A P : List Byte) (F : Lanes 127),
    Instr.LengthsAdmitted alen plen clen align → A.length = alen → P.length = plen →
    (∀ i, 1 ≤ i → i < 1 + alen + plen + clen → laneAt F i = laneAt (buildFrame which alen plen clen A P) i) →
    frameAccepted which F alen plen clen = true ∧ lanesFrom F 1 alen = A ∧ lanesFrom F (1 + alen) plen = P

/-- R131: against one buffer, two hypotheses with the same `ALEN + PLEN` and the same `CLEN` end with the same
status; and a frame that passes with `CLEN = 2` passes with `CLEN = 1`. -/
def Obligations.EqualSumHypothesesAgree : Prop :=
  (∀ (alen plen alen' plen' clen align rawlen : Nat) (s t t' : State),
    Instr.LengthsAdmitted alen plen clen align → Instr.LengthsAdmitted alen' plen' clen align →
    alen + plen = alen' + plen' →
    exec (.parse alen plen clen align rawlen) s = .next t →
    exec (.parse alen' plen' clen align rawlen) s = .next t' → t.rsp.status = t'.rsp.status) ∧
  (∀ (alen plen align rawlen : Nat) (s t : State),
    exec (.parse alen plen 2 align rawlen) s = .next t → t.rsp.status = 0#4 →
    ∃ r, exec (.parse alen plen 1 align rawlen) s = .next (endsWith s r) ∧ r.status = 0#4)

/-- R132: one flipped bit among the address and payload bytes of an assembled frame, and PARSE with the same
lengths ends with `CRC_MISMATCH`, for both CRC lengths. -/
def Obligations.TamperedFrameIsRejected : Prop :=
  ∀ (alen plen clen align rawlen : Nat) (noack big : Bool) (seq : Byte) (s t u : State) (p b : Nat),
    Instr.LengthsAdmitted alen plen clen align →
    exec (.assemble alen plen clen align noack big seq) s = .next t →
    1 ≤ p → p ≤ alen + plen → b < 8 →
    (∀ i, i < 1 + alen + plen + clen →
      laneAt u.req.fIn i = if i = p then laneAt t.rsp.pktF i ^^^ (1#8 <<< b) else laneAt t.rsp.pktF i) →
    1 + alen + plen + clen ≤ rawlen →
    exec (.parse alen plen clen align rawlen) u = .next (endsWith u (failure 1#4))

/-- R133: after an OK PARSE the frame lanes from 1 up to `FL - 1` are the raw buffer's, and lane 0 is the preamble
the address selects, whatever the raw buffer's byte 0 is. -/
def Obligations.ParsedFrameIsTheBuffer : Prop :=
  ∀ (alen plen clen align rawlen : Nat) (s t : State),
    exec (.parse alen plen clen align rawlen) s = .next t → t.rsp.status = 0#4 →
    (∀ i, 1 ≤ i → i < 1 + alen + plen + clen → laneAt t.rsp.pktF i = laneAt s.req.fIn i) ∧
    laneAt t.rsp.pktF 0 = if (laneAt s.req.fIn 1).msb then 0xAA#8 else 0x55#8

/-! ### Outcomes -/

/-- R24, R25: an OK response of ASSEMBLE or PARSE satisfies the Packet invariants and has every unused lane 0; an
OK response of CRCUPD has every packet field 0; and a failing command has every field but STATUS 0. -/
def Obligations.ResponsesKeepThePacketInvariants : Prop :=
  ∀ (i : Instr) (s t : State), exec i s = .next t →
    (t.rsp.status = 0#4 →
      match i with
      | .crcupd _ _ _ => t.rsp = { Response.zero with crcOut := t.rsp.crcOut }
      | .assemble _ _ _ _ _ _ _ => PacketInvariants t.rsp
      | .parse _ _ _ _ _ => PacketInvariants t.rsp) ∧
    (t.rsp.status ≠ 0#4 → t.rsp = failure t.rsp.status)

/-- R140: the codes, which command raises which, and that 8 to 15 are never produced. -/
def Obligations.StatusCodesByCommand : Prop :=
  (Status.ok.code = 0#4 ∧ Status.crcMismatch.code = 1#4 ∧ Status.payloadTooLong.code = 2#4 ∧
    Status.badLength.code = 3#4 ∧ Status.badBitcount.code = 4#4 ∧ Status.shortBuffer.code = 5#4 ∧
    Status.alignUnsupported.code = 6#4 ∧ Status.illegalCommand.code = 7#4) ∧
  (∀ (i : Instr) (s t : State), exec i s = .next t → t.rsp.status ∈ statusCodes i) ∧
  (∀ s t : State, execStep s = .next t → t.rsp.status.toNat < 8)

/-- R141 with 93_implementation_defined.md: EXEC ends in a state a claim may rest on exactly when its status is a
result (`OK`, `CRC_MISMATCH`) or the clean rejection (`PAYLOAD_TOO_LONG`), and a command whose fields all hold
legal values always does. -/
def Obligations.GoodExactlyForDefinedOutcomes : Prop :=
  (∀ s t : State, execStep s = .next t → (goodState t = true ↔ t.rsp.status ∈ [0#4, 1#4, 2#4])) ∧
  (∀ (i : Instr) (s t : State), exec i s = .next t → i.Admitted → goodState t = true)

/-- R141 with 93_implementation_defined.md ("no fault recorded and no refusal"): a run of `k` steps is good exactly
when the response held at its start, if any, has status `OK`, `CRC_MISMATCH` or `PAYLOAD_TOO_LONG`, and, at every
state the run steps from, a READ turn finds RSP_VALID = 1 (R164) and an EXEC gives one of those statuses. It holds
from every state, the invariant not needed. `goodRun` is the model's predicate (log 7), and which turns the block
executes in is the model's choice (log 1, log 2). -/
def Obligations.GoodRunExactlyWhenReadsAndStatusesAre : Prop :=
  ∀ (k : Nat) (s : State),
    goodRun k s = true ↔
      (s.rspValid = true → s.rsp.status ∈ [0#4, 1#4, 2#4]) ∧
      ∀ (j : Nat) (t : State), j < k → stepN j s = .next t →
        (∀ rest, t.schedule = .read :: rest → t.rspValid = true) ∧
        (t.busy = true →
          (t.schedule = [] ∨ (∃ rest, t.schedule = .exec :: rest) ∨ (∃ r rest, t.schedule = .issue r :: rest)) →
          (responseOf t.req).status ∈ [0#4, 1#4, 2#4])

/-- R142: EXEC ends with the status of the first check that fails, in the rule's order over the raw word, and
where none fails with OK or, for PARSE, `CRC_MISMATCH`. -/
def Obligations.FirstFailingCheckGivesTheStatus : Prop :=
  ∀ s : State, ∃ r, execStep s = .next (endsWith s r) ∧
    match check s.req.cmd with
    | some st => r = failure st.code
    | none => r.status = 0#4 ∨ (s.req.cmd.toNat % 16 = 3 ∧ r = failure 1#4)

/-- R143: EXEC of a command that fails changes STATUS, zeroes every other field and lane, sets RSP_VALID, clears
BUSY, and changes nothing else. -/
def Obligations.FailingCommandWritesOnlyItsStatus : Prop :=
  ∀ s t : State, execStep s = .next t → t.rsp.status ≠ 0#4 → t = endsWith s (failure t.rsp.status)

/-- R49, R50, R30: EXEC of every command answers a next state, in which the request latch and everything but
`BUSY`, `RSP_VALID` and the response latch is as it was. -/
def Obligations.EveryCommandCompletesInOneStep : Prop :=
  ∀ (i : Instr) (s : State), ∃ r, exec i s = .next (endsWith s r)

/-- R21: the response to a command is a function of its request alone. -/
def Obligations.ResponseDependsOnTheRequestOnly : Prop :=
  ∀ s t : State, s.req = t.req → ∃ r, execStep s = .next (endsWith s r) ∧ execStep t = .next (endsWith t r)

/-! ### The host protocol -/

/-- A step in which the block executes runs the command its decoder reads from `REQ.CMD`, or ends a word that
spells none with `ILLEGAL_COMMAND` (R162, R142); around it the model's schedule moves past the block's turn, and
waits where the host's ISSUE waits or no turn is left (the model's choice, log 1 and log 2). -/
def Obligations.StepRunsTheDecodedCommand : Prop :=
  ∀ s : State, s.busy = true →
    (∀ i, decode s.req.cmd = .command i →
      (∀ rest, s.schedule = .exec :: rest → step s = exec i { s with schedule := rest }) ∧
      (∀ r rest, s.schedule = .issue r :: rest → step s = exec i s) ∧
      (s.schedule = [] → step s = exec i s)) ∧
    (∀ why, decode s.req.cmd = .rejected why →
      (∀ rest, s.schedule = .exec :: rest → step s = .next (endsWith { s with schedule := rest } (failure 7#4))) ∧
      (∀ r rest, s.schedule = .issue r :: rest → step s = .next (endsWith s (failure 7#4))) ∧
      (s.schedule = [] → step s = .next (endsWith s (failure 7#4))))

/-- The word the host places with withFetchWord is what the very next step executes (log 10). -/
def Obligations.PlacedWordIsExecutedNext : Prop :=
  ∀ (s : State) (w : CmdWord),
    step (s.withFetchWord 32 w.toNat) =
      execStep { s with req := { s.req with cmd := w }, busy := true, rspValid := false }

/-- R162, R163, R165: ISSUE captures the request whole, clears RSP_VALID, sets BUSY and leaves the previous
response unspecified; READ returns the response latch and changes nothing; EXEC's effect on the two bits. The
schedule, the host's list of reads and the draw counter are the model's own (log 1, log 5). -/
def Obligations.HostProtocolSteps : Prop :=
  ∀ s : State,
    (∀ r rest, s.busy = false → s.schedule = .issue r :: rest →
      ∃ stale, step s = .next
        { busy := true, req := r, rspValid := false, rsp := stale, schedule := rest, reads := s.reads,
          draws := s.draws + 1 }) ∧
    (∀ rest, s.rspValid = true → s.schedule = .read :: rest →
      step s = .next { s with schedule := rest, reads := s.rsp :: s.reads }) ∧
    (∀ rest, s.busy = true → s.schedule = .exec :: rest →
      ∃ r, step s = .next (endsWith { s with schedule := rest } r) ∧ r = responseOf s.req) ∧
    (∀ r rest, s.busy = true → s.schedule = .issue r :: rest →
      ∃ q, step s = .next (endsWith s q) ∧ q = responseOf s.req)

/-- R164: a READ while `RSP_VALID = 0` is a fault. -/
def Obligations.ReadWithoutResponseFaults : Prop :=
  ∀ (s : State) (rest : List Turn), s.rspValid = false → s.schedule = .read :: rest →
    step s = .fault .readWithoutResponse

/-- R160: reset at any time clears BUSY and RSP_VALID, and the command in flight is abandoned: a turn of the block
that comes next gives no response. State.reset has both bits 0. The model's choices it rests on: the schedule and
the list of reads (log 1), that a reset leaves them as they are (log 4), and that a turn of the block with BUSY = 0
passes (log 2). What the latches hold (log 3, log 4) is no part of it. -/
def Obligations.ResetAbandonsTheCommand : Prop :=
  State.reset.busy = false ∧ State.reset.rspValid = false ∧
  ∀ (s : State) (rest : List Turn), s.schedule = .reset :: rest →
    ∃ t, step s = .next t ∧ t.busy = false ∧ t.rspValid = false ∧ t.schedule = rest ∧ t.reads = s.reads ∧
      ∀ rest', rest = .exec :: rest' → step t = .next { t with schedule := rest' }

/-- R26: the response latch does not change between the EXEC that writes it and the next ISSUE or reset. -/
def Obligations.ResponseLatchIsImmutable : Prop :=
  ∀ s t : State, Inv s → s.rspValid = true → step s = .next t →
    (∀ r rest, s.schedule ≠ .issue r :: rest) → (∀ rest, s.schedule ≠ .reset :: rest) →
    t.rspValid = true ∧ t.rsp = s.rsp

/-- R30, R50: only ISSUE and reset change the request latch. -/
def Obligations.OnlyIssueAndResetWriteTheRequest : Prop :=
  ∀ s t : State, step s = .next t → t.req ≠ s.req →
    (∃ r rest, s.schedule = .issue r :: rest ∧ s.busy = false ∧ t.req = r) ∨ (∃ rest, s.schedule = .reset :: rest)

/-- R29, R30: a valid response appears only by an EXEC, from a command in flight. -/
def Obligations.OnlyExecMakesAResponse : Prop :=
  ∀ s t : State, step s = .next t → s.rspValid = false → t.rspValid = true →
    s.busy = true ∧ t.busy = false ∧ t.rsp = responseOf s.req

/-- R162, R167: a command in flight is executed by the next step, unless that step is a reset or a READ that
faults. -/
def Obligations.CommandInFlightIsExecuted : Prop :=
  ∀ s : State, s.busy = true → s.rspValid = false →
    (∃ t, step s = .next t ∧ t.busy = false ∧ t.rspValid = true ∧ t.rsp = responseOf s.req) ∨
    (∃ rest, s.schedule = .reset :: rest) ∨
    ((∃ rest, s.schedule = .read :: rest) ∧ step s = .fault .readWithoutResponse)

/-- The invariant of Safety.lean holds right after reset. -/
def Obligations.ResetMeetsTheInvariant : Prop := Inv State.reset

/-- Every step keeps the invariant: BUSY and RSP_VALID exclude each other (R162), a valid response is the one the
latched request gives (R21, R50), and what the host has read are responses to requests (R26). -/
def Obligations.EveryStepKeepsTheInvariant : Prop :=
  ∀ s t : State, Inv s → step s = .next t → Inv t

/-! ### Host programs, the assembly syntax, several instances -/

/-- R70 with R81: the host program `crcseq` over any byte list, from a state with no command in flight, ends with
the list's CRC. -/
def Obligations.CrcseqComputesTheCrc : Prop :=
  ∀ (bytes : List Byte) (s : State), s.busy = false → ∃ t, crcseq bytes s = some (crc16 bytes, t) ∧ t.busy = false

/-- R70, R129: the host program `tryparse` stops after the first payload length whose PARSE ends with OK, with
that length and its response, or reports that none did. For operands outside R69's ranges, whose line the
assembler refuses, it rests on the model's choice that the command is issued all the same, modulo the field widths,
that its status decides the try like any other, and that the length reported is the one tried (log 15). -/
def Obligations.TryparseStopsAtTheFirstOk : Prop :=
  ∀ (alen clen rawlen p0 p1 : Nat) (F : Lanes 127) (s : State), s.busy = false →
    ∃ t, tryparse alen clen rawlen F p0 p1 s =
      some (((List.range' p0 (p1 + 1 - p0)).find? fun p =>
        (responseOf (tryRequest alen clen rawlen F p)).status == 0#4).map fun p =>
          (p, responseOf (tryRequest alen clen rawlen F p)), t) ∧ t.busy = false

/-- R69: an assembled command is well-formed and ends only with `OK`, `SHORT_BUFFER` or `CRC_MISMATCH`. -/
def Obligations.AssembledCommandsAreLegal : Prop :=
  ∀ (l : AsmLine) (i : Instr), assembleLine l = some i →
    i.WellFormed ∧ ∀ s : State, ∃ r, exec i s = .next (endsWith s r) ∧
      (r.status = 0#4 ∨ r.status = 5#4 ∨ r.status = 1#4)

/-- R148: a step of one instance leaves every other instance as it was. -/
def Obligations.InstancesAreIndependent : Prop :=
  ∀ (p q : Platform) (k : Nat), stepAt p k = some (.next q) →
    (∀ j, j ≠ k → q[j]? = p[j]?) ∧ ∃ s t, p[k]? = some s ∧ step s = .next t ∧ q[k]? = some t
end

