-- ==== Sys2Proof/Laws/Crc.lean ====
section
/-! SUPPORT. The small lemmas of the CRC engine: its loop, its linearity and the fold over bytes. -/

namespace Sys2Proof.Machine

@[simp] theorem crcShifts_zero (r : Word16) : crcShifts 0 r = r := rfl

theorem crcShifts_succ (k : Nat) (r : Word16) : crcShifts (k + 1) r = crcShifts k (crcShift r) := rfl

theorem crcShifts_add (j k : Nat) (r : Word16) : crcShifts (j + k) r = crcShifts k (crcShifts j r) := by
  induction j generalizing r with
  | zero => simp
  | succ j ih => rw [Nat.succ_add, crcShifts_succ, ih, crcShifts_succ]

theorem crcShift_zero : crcShift 0#16 = 0#16 := by decide

/-- One iteration of the loop is linear. -/
theorem crcShift_xor (a b : Word16) : crcShift (a ^^^ b) = crcShift a ^^^ crcShift b := by
  simp only [crcShift, BitVec.msb_xor, shl1]
  have hd : (a ^^^ b) <<< 1 = a <<< 1 ^^^ b <<< 1 := BitVec.shiftLeft_xor_distrib a b 1
  have hc : ∀ x y p : Word16, p ^^^ (x ^^^ y) = x ^^^ (p ^^^ y) := fun x y p => by ac_rfl
  have hs : ∀ x p : Word16, p ^^^ (p ^^^ x) = x := fun x p => by
    rw [← BitVec.xor_assoc, BitVec.xor_self, BitVec.zero_xor]
  cases a.msb <;> cases b.msb <;> simp [hd, hs, BitVec.xor_comm _ Config.crcPoly, hc, BitVec.xor_assoc]

theorem crcShifts_xor (k : Nat) (a b : Word16) : crcShifts k (a ^^^ b) = crcShifts k a ^^^ crcShifts k b := by
  induction k generalizing a b with
  | zero => rfl
  | succ k ih => rw [crcShifts_succ, crcShift_xor, ih]; rfl

@[simp] theorem crcFrom_nil (seed : Word16) : crcFrom seed [] = seed := rfl

theorem crcFrom_cons (seed : Word16) (b : Byte) (s : List Byte) :
    crcFrom seed (b :: s) = crcFrom (crcUpdate seed b 8) s := rfl

theorem crcFrom_append (seed : Word16) (s t : List Byte) :
    crcFrom seed (s ++ t) = crcFrom (crcFrom seed s) t := by
  simp [crcFrom]

end Sys2Proof.Machine
end

