-- ==== Sys2Proof/Laws/State.lean ====
section
/-! SUPPORT. What each operation over the state does to each field: one lemma per field per operation. -/

namespace Sys2Proof.Machine

@[simp] theorem State.complete_busy (s : State) (r : Response) : (s.complete r).busy = false := rfl
@[simp] theorem State.complete_req (s : State) (r : Response) : (s.complete r).req = s.req := rfl
@[simp] theorem State.complete_rspValid (s : State) (r : Response) : (s.complete r).rspValid = true := rfl
@[simp] theorem State.complete_rsp (s : State) (r : Response) : (s.complete r).rsp = r := rfl
@[simp] theorem State.complete_schedule (s : State) (r : Response) : (s.complete r).schedule = s.schedule := rfl
@[simp] theorem State.complete_reads (s : State) (r : Response) : (s.complete r).reads = s.reads := rfl
@[simp] theorem State.complete_draws (s : State) (r : Response) : (s.complete r).draws = s.draws := rfl

@[simp] theorem State.raise_busy (s : State) (st : Status) : (s.raise st).busy = false := rfl
@[simp] theorem State.raise_req (s : State) (st : Status) : (s.raise st).req = s.req := rfl
@[simp] theorem State.raise_rspValid (s : State) (st : Status) : (s.raise st).rspValid = true := rfl
@[simp] theorem State.raise_rsp (s : State) (st : Status) : (s.raise st).rsp = failedResponse st := rfl
@[simp] theorem State.raise_schedule (s : State) (st : Status) : (s.raise st).schedule = s.schedule := rfl
@[simp] theorem State.raise_reads (s : State) (st : Status) : (s.raise st).reads = s.reads := rfl
@[simp] theorem State.raise_draws (s : State) (st : Status) : (s.raise st).draws = s.draws := rfl

@[simp] theorem State.issue_busy (s : State) (r : Request) : (s.issue r).busy = true := rfl
@[simp] theorem State.issue_req (s : State) (r : Request) : (s.issue r).req = r := rfl
@[simp] theorem State.issue_rspValid (s : State) (r : Request) : (s.issue r).rspValid = false := rfl
@[simp] theorem State.issue_rsp (s : State) (r : Request) : (s.issue r).rsp = freeResponse s.draws := rfl
@[simp] theorem State.issue_schedule (s : State) (r : Request) : (s.issue r).schedule = s.schedule := rfl
@[simp] theorem State.issue_reads (s : State) (r : Request) : (s.issue r).reads = s.reads := rfl
@[simp] theorem State.issue_draws (s : State) (r : Request) : (s.issue r).draws = s.draws + 1 := rfl

@[simp] theorem State.readOut_busy (s : State) : (s.readOut).busy = s.busy := rfl
@[simp] theorem State.readOut_req (s : State) : (s.readOut).req = s.req := rfl
@[simp] theorem State.readOut_rspValid (s : State) : (s.readOut).rspValid = s.rspValid := rfl
@[simp] theorem State.readOut_rsp (s : State) : (s.readOut).rsp = s.rsp := rfl
@[simp] theorem State.readOut_schedule (s : State) : (s.readOut).schedule = s.schedule := rfl
@[simp] theorem State.readOut_reads (s : State) : (s.readOut).reads = s.rsp :: s.reads := rfl
@[simp] theorem State.readOut_draws (s : State) : (s.readOut).draws = s.draws := rfl

@[simp] theorem State.resetBlock_busy (s : State) : (s.resetBlock).busy = false := rfl
@[simp] theorem State.resetBlock_req (s : State) : (s.resetBlock).req = Request.zero := rfl
@[simp] theorem State.resetBlock_rspValid (s : State) : (s.resetBlock).rspValid = false := rfl
@[simp] theorem State.resetBlock_rsp (s : State) : (s.resetBlock).rsp = Response.zero := rfl
@[simp] theorem State.resetBlock_schedule (s : State) : (s.resetBlock).schedule = s.schedule := rfl
@[simp] theorem State.resetBlock_reads (s : State) : (s.resetBlock).reads = s.reads := rfl
@[simp] theorem State.resetBlock_draws (s : State) : (s.resetBlock).draws = s.draws := rfl

@[simp] theorem State.nextTurn_busy (s : State) : (s.nextTurn).busy = s.busy := rfl
@[simp] theorem State.nextTurn_req (s : State) : (s.nextTurn).req = s.req := rfl
@[simp] theorem State.nextTurn_rspValid (s : State) : (s.nextTurn).rspValid = s.rspValid := rfl
@[simp] theorem State.nextTurn_rsp (s : State) : (s.nextTurn).rsp = s.rsp := rfl
@[simp] theorem State.nextTurn_schedule (s : State) : (s.nextTurn).schedule = s.schedule.tail := rfl
@[simp] theorem State.nextTurn_reads (s : State) : (s.nextTurn).reads = s.reads := rfl
@[simp] theorem State.nextTurn_draws (s : State) : (s.nextTurn).draws = s.draws := rfl

@[simp] theorem State.placeCommand_busy (s : State) (w : CmdWord) : (s.placeCommand w).busy = true := rfl
@[simp] theorem State.placeCommand_req (s : State) (w : CmdWord) : (s.placeCommand w).req = { s.req with cmd := w } := rfl
@[simp] theorem State.placeCommand_rspValid (s : State) (w : CmdWord) : (s.placeCommand w).rspValid = false := rfl
@[simp] theorem State.placeCommand_rsp (s : State) (w : CmdWord) : (s.placeCommand w).rsp = s.rsp := rfl
@[simp] theorem State.placeCommand_schedule (s : State) (w : CmdWord) : (s.placeCommand w).schedule = .exec :: s.schedule := rfl
@[simp] theorem State.placeCommand_reads (s : State) (w : CmdWord) : (s.placeCommand w).reads = s.reads := rfl
@[simp] theorem State.placeCommand_draws (s : State) (w : CmdWord) : (s.placeCommand w).draws = s.draws := rfl

@[simp] theorem Response.withStatus_status (r : Response) (st : Status) : (r.withStatus st).status = st.code := rfl
@[simp] theorem Response.withStatus_crcOut (r : Response) (st : Status) : (r.withStatus st).crcOut = r.crcOut := rfl
@[simp] theorem Response.withStatus_pktAlen (r : Response) (st : Status) : (r.withStatus st).pktAlen = r.pktAlen := rfl
@[simp] theorem Response.withStatus_pktPlen (r : Response) (st : Status) : (r.withStatus st).pktPlen = r.pktPlen := rfl
@[simp] theorem Response.withStatus_pktClen (r : Response) (st : Status) : (r.withStatus st).pktClen = r.pktClen := rfl
@[simp] theorem Response.withStatus_pktSeq (r : Response) (st : Status) : (r.withStatus st).pktSeq = r.pktSeq := rfl
@[simp] theorem Response.withStatus_pktNoack (r : Response) (st : Status) : (r.withStatus st).pktNoack = r.pktNoack := rfl
@[simp] theorem Response.withStatus_pktBig (r : Response) (st : Status) : (r.withStatus st).pktBig = r.pktBig := rfl
@[simp] theorem Response.withStatus_pktA (r : Response) (st : Status) : (r.withStatus st).pktA = r.pktA := rfl
@[simp] theorem Response.withStatus_pktP (r : Response) (st : Status) : (r.withStatus st).pktP = r.pktP := rfl
@[simp] theorem Response.withStatus_pktC (r : Response) (st : Status) : (r.withStatus st).pktC = r.pktC := rfl
@[simp] theorem Response.withStatus_pktF (r : Response) (st : Status) : (r.withStatus st).pktF = r.pktF := rfl
@[simp] theorem Response.withStatus_pktFlenBytes (r : Response) (st : Status) : (r.withStatus st).pktFlenBytes = r.pktFlenBytes := rfl
@[simp] theorem Response.withStatus_pktFlenBits (r : Response) (st : Status) : (r.withStatus st).pktFlenBits = r.pktFlenBits := rfl

theorem State.finishOk_eq (s : State) (r : Response) :
    s.finishOk r = s.complete (r.withStatus .ok) := rfl

theorem State.raise_eq (s : State) (st : Status) : s.raise st = s.complete (failedResponse st) := rfl

@[simp] theorem failedResponse_status (st : Status) : (failedResponse st).status = st.code := rfl

/-- Ending a command overwrites whatever the response latch, `BUSY` and `RSP_VALID` held. -/
theorem State.complete_congr {s t : State} (r : Response) (hq : s.req = t.req) (hs : s.schedule = t.schedule)
    (hr : s.reads = t.reads) (hd : s.draws = t.draws) : s.complete r = t.complete r := by
  cases s; cases t; simp_all [State.complete]

end Sys2Proof.Machine
end

