-- ==== Sys2Proof/Laws/Status.lean ====
section
/-! SUPPORT. When the checks of a command pass, and which statuses they can give. -/

namespace Sys2Proof.Machine

theorem bitcountStatus_eq_none {bits : Nat} : bitcountStatus bits = none ↔ 1 ≤ bits ∧ bits ≤ 8 := by
  unfold bitcountStatus
  split
  · simp; omega
  · simp; omega

theorem bitcountStatus_eq_some {bits : Nat} {st : Status} (h : bitcountStatus bits = some st) :
    st = .badBitcount := by
  unfold bitcountStatus at h
  split at h
  · exact (Option.some.inj h).symm
  · cases h

theorem lengthStatus_eq_none {alen plen clen align : Nat} :
    lengthStatus alen plen clen align = none ↔ Instr.LengthsAdmitted alen plen clen align := by
  unfold lengthStatus Instr.LengthsAdmitted
  constructor
  · intro h
    split_ifs at h
    omega
  · rintro ⟨ha, hp, hl, hc⟩
    rw [if_neg (by omega), if_neg (by omega), if_neg (by omega), if_neg (by omega)]

theorem lengthStatus_eq_some {alen plen clen align : Nat} {st : Status}
    (h : lengthStatus alen plen clen align = some st) :
    st = .alignUnsupported ∨ st = .payloadTooLong ∨ st = .badLength := by
  unfold lengthStatus at h
  split_ifs at h <;> simp_all

theorem parseStatus_eq_none {alen plen clen align rawlen : Nat} :
    parseStatus alen plen clen align rawlen = none ↔
      Instr.LengthsAdmitted alen plen clen align ∧ 1 + alen + plen + clen ≤ rawlen := by
  unfold parseStatus
  rcases h : lengthStatus alen plen clen align with _ | st
  · have := lengthStatus_eq_none.mp h
    simp only [this]
    split
    · simp; omega
    · simp; omega
  · have : ¬ Instr.LengthsAdmitted alen plen clen align := fun hn => by
      rw [lengthStatus_eq_none.mpr hn] at h; cases h
    simp [this]

theorem parseStatus_eq_some {alen plen clen align rawlen : Nat} {st : Status}
    (h : parseStatus alen plen clen align rawlen = some st) :
    st = .alignUnsupported ∨ st = .payloadTooLong ∨ st = .badLength ∨ st = .shortBuffer := by
  unfold parseStatus at h
  split at h
  · rename_i st' h'
    cases h
    rcases lengthStatus_eq_some h' with h | h | h <;> simp [h]
  · split at h <;> simp_all

/-- A code names one status. -/
theorem Status.code_injective {a b : Status} (h : a.code = b.code) : a = b := by
  cases a <;> cases b <;> first | rfl | (exact absurd h (by decide))

theorem Status.ofCode?_code (st : Status) : Status.ofCode? st.code = some st := by
  cases st <;> rfl

end Sys2Proof.Machine
end

