-- ==== Sys2Proof/Laws/Exec.lean ====
section
/-! SUPPORT. What each meaning can do, and what a step can do: one inversion lemma each, which later proofs cite
instead of unfolding the machine. -/

namespace Sys2Proof.Machine

theorem execCrcupd_cases (bits : Nat) (data : Byte) (crcin : Word16) (s : State) :
    (∃ st, bitcountStatus bits = some st ∧ execCrcupd bits data crcin s = .next (s.raise st)) ∨
    (bitcountStatus bits = none ∧ execCrcupd bits data crcin s =
      .next (s.finishOk { Response.zero with crcOut := crcUpdate crcin data bits })) := by
  unfold execCrcupd
  cases h : bitcountStatus bits with
  | none => exact .inr ⟨rfl, rfl⟩
  | some st => exact .inl ⟨st, rfl, rfl⟩

theorem execAssemble_cases (alen plen clen align : Nat) (noack big : Bool) (seq : Byte) (s : State) :
    (∃ st, lengthStatus alen plen clen align = some st ∧
      execAssemble alen plen clen align noack big seq s = .next (s.raise st)) ∨
    (lengthStatus alen plen clen align = none ∧ execAssemble alen plen clen align noack big seq s =
      .next (s.finishOk (buildPacket Config.crc1Byte alen plen clen seq noack big
        (memRead s.req.aIn 0 alen) (memRead s.req.pIn 0 plen)))) := by
  unfold execAssemble
  cases h : lengthStatus alen plen clen align with
  | none => exact .inr ⟨rfl, rfl⟩
  | some st => exact .inl ⟨st, rfl, rfl⟩

theorem execParse_cases (alen plen clen align rawlen : Nat) (s : State) :
    (∃ st, parseStatus alen plen clen align rawlen = some st ∧
      execParse alen plen clen align rawlen s = .next (s.raise st)) ∨
    (parseStatus alen plen clen align rawlen = none ∧
      frameAccepted Config.crc1Byte s.req.fIn alen plen clen = true ∧
      execParse alen plen clen align rawlen s = .next (s.finishOk (buildPacket Config.crc1Byte alen plen clen 0#8
        false false (candidateAddress s.req.fIn alen) (candidatePayload s.req.fIn alen plen)))) ∨
    (parseStatus alen plen clen align rawlen = none ∧
      frameAccepted Config.crc1Byte s.req.fIn alen plen clen = false ∧
      execParse alen plen clen align rawlen s = .next (s.raise .crcMismatch)) := by
  unfold execParse
  cases h : parseStatus alen plen clen align rawlen with
  | some st => exact .inl ⟨st, rfl, rfl⟩
  | none =>
    cases hf : frameAccepted Config.crc1Byte s.req.fIn alen plen clen with
    | true => exact .inr (.inl ⟨rfl, rfl, by simp⟩)
    | false => exact .inr (.inr ⟨rfl, rfl, by simp⟩)

/-- Everything the turn of a state can be, with the schedule and the latch bits that make it so. -/
theorem nextMove_cases (s : State) :
    (s.schedule = [] ∧ s.busy = false ∧ nextMove s = .idle) ∨
    (s.schedule = [] ∧ s.busy = true ∧ nextMove s = .exec s) ∨
    (∃ r rest, s.schedule = .issue r :: rest ∧ s.busy = true ∧ nextMove s = .exec s) ∨
    (∃ r rest, s.schedule = .issue r :: rest ∧ s.busy = false ∧ nextMove s = .host (s.nextTurn.issue r)) ∨
    (∃ rest, s.schedule = .exec :: rest ∧ s.busy = true ∧ nextMove s = .exec s.nextTurn) ∨
    (∃ rest, s.schedule = .exec :: rest ∧ s.busy = false ∧ nextMove s = .host s.nextTurn) ∨
    (∃ rest, s.schedule = .read :: rest ∧ s.rspValid = true ∧ nextMove s = .host s.nextTurn.readOut) ∨
    (∃ rest, s.schedule = .read :: rest ∧ s.rspValid = false ∧ nextMove s = .badRead) ∨
    (∃ rest, s.schedule = .reset :: rest ∧ nextMove s = .host s.nextTurn.resetBlock) := by
  unfold nextMove
  rcases hs : s.schedule with _ | ⟨turn, rest⟩
  · cases hb : s.busy <;> simp
  · cases turn <;> cases hb : s.busy <;> cases hv : s.rspValid <;> simp

theorem step_of_idle {s : State} (h : nextMove s = .idle) : step s = .next s := by simp [step, h]

theorem step_of_exec {s t : State} (h : nextMove s = .exec t) : step s = execStep t := by simp [step, h]

theorem step_of_host {s t : State} (h : nextMove s = .host t) : step s = .next t := by simp [step, h]

theorem step_of_badRead {s : State} (h : nextMove s = .badRead) : step s = .fault .readWithoutResponse := by
  simp [step, h]

theorem execStep_of_command {s : State} {i : Instr} (h : decode s.req.cmd = .command i) :
    execStep s = exec i s := by simp [execStep, h]

theorem execStep_of_rejected {s : State} {why : DecodeReject} (h : decode s.req.cmd = .rejected why) :
    execStep s = .next (s.raise .illegalCommand) := by simp [execStep, h, State.rejectCommand]

end Sys2Proof.Machine
end

