-- ==== Sys2Proof/Laws/Lanes.lean ====
section
/-! SUPPORT. Reading and writing lanes: a read after a write gives the bytes written inside the range written
and leaves every other lane as it was. -/

namespace Sys2Proof.Machine

@[simp] theorem laneAt_replicate_zero (n i : Nat) : laneAt (Vector.replicate n (0#8 : Byte)) i = 0#8 := by
  simp only [laneAt, Vector.getElem?_replicate]
  split <;> rfl

theorem laneAt_of_size_le {n : Nat} (L : Lanes n) {i : Nat} (h : n ≤ i) : laneAt L i = 0#8 := by
  simp [laneAt, Vector.getElem?_eq_none h]

theorem laneAt_set_same {n : Nat} (L : Lanes n) {i : Nat} (b : Byte) (h : i < n) :
    laneAt (L.setIfInBounds i b) i = b := by
  simp [laneAt, h]

theorem laneAt_set_other {n : Nat} (L : Lanes n) {i j : Nat} (b : Byte) (h : i ≠ j) :
    laneAt (L.setIfInBounds i b) j = laneAt L j := by
  simp [laneAt, Vector.getElem?_setIfInBounds_ne h]

/-- All that memWrite does: lanes `i` to `i + s.length - 1` hold the bytes of `s`, the others are unchanged. -/
theorem laneAt_memWrite {n : Nat} (L : Lanes n) (i : Nat) (s : List Byte) (h : i + s.length ≤ n) (j : Nat) :
    laneAt (memWrite L i s) j = if i ≤ j ∧ j < i + s.length then (s[j - i]?).getD 0#8 else laneAt L j := by
  induction s generalizing L i with
  | nil => simp [memWrite]
  | cons b s ih =>
    simp only [List.length_cons] at h
    rw [memWrite, ih _ _ (by omega)]
    by_cases hj : i = j
    · subst hj
      have h1 : ¬ (i + 1 ≤ i ∧ i < i + 1 + s.length) := by omega
      have h2 : i ≤ i ∧ i < i + (b :: s).length := by simp
      rw [if_neg h1, if_pos h2, laneAt_set_same _ _ (by omega)]
      simp
    · rw [laneAt_set_other _ _ hj]
      by_cases hr : i + 1 ≤ j ∧ j < i + 1 + s.length
      · have h2 : i ≤ j ∧ j < i + (b :: s).length := by simp; omega
        rw [if_pos hr, if_pos h2]
        obtain ⟨k, hk⟩ : ∃ k, j - i = k + 1 := ⟨j - i - 1, by omega⟩
        rw [hk, show j - (i + 1) = k by omega]
        simp
      · have h2 : ¬ (i ≤ j ∧ j < i + (b :: s).length) := by simp; omega
        rw [if_neg hr, if_neg h2]

theorem memRead_length {n : Nat} (L : Lanes n) (i count : Nat) : (memRead L i count).length = count := by
  simp [memRead]

theorem memRead_getElem? {n : Nat} (L : Lanes n) (i count j : Nat) :
    (memRead L i count)[j]? = if j < count then some (laneAt L (i + j)) else none := by
  simp only [memRead, List.getElem?_map]
  split <;> simp [*]

/-- A read depends on the lanes it reads and on no other. -/
theorem memRead_congr {n : Nat} {L M : Lanes n} {i count : Nat}
    (h : ∀ j, i ≤ j → j < i + count → laneAt L j = laneAt M j) : memRead L i count = memRead M i count := by
  simp only [memRead, List.map_inj_left, List.mem_range]
  intro j hj
  exact h _ (by omega) (by omega)

/-- Two adjoining reads are one read. -/
theorem memRead_append {n : Nat} (L : Lanes n) (i a b : Nat) :
    memRead L i a ++ memRead L (i + a) b = memRead L i (a + b) := by
  simp only [memRead, List.range_add, List.map_append, List.map_map]
  congr 1
  apply List.map_congr_left
  intro j _
  simp [Nat.add_assoc]

theorem crcField_length (which : Config.Crc1Byte) {clen : Nat} (h : clen = 1 ∨ clen = 2) (crc : Word16) :
    (crcField which clen crc).length = clen := by
  rcases h with rfl | rfl <;> simp [crcField]

end Sys2Proof.Machine
end

