-- ==== Sys2Proof/Laws/PerInstr.lean ====
section
/-! SUPPORT. Statements made of every command, one lemma per constructor of Instr. -/

namespace Sys2Proof.Laws.FixedBits

/-- The encoded word of a command fits its row of the opcode map: its opcode and its reserved bits are as R65
fixes them (30_encoding.md R65, R67), whatever its fields hold. -/
def Statement (i : Instr) : Prop := i.row.fits (encode i) = true

theorem crcupd (bits : Nat) (data : Byte) (crcin : Word16) : Statement (.crcupd bits data crcin) := by
  simp only [Statement, Instr.row, rowCrcupd, OpcodeRow.fits, encode, beq_iff_eq]
  apply BitVec.eq_of_getLsbD_eq
  intro i hi
  simp only [BitVec.getLsbD_and]
  interval_cases i <;> simp [fieldAt]

theorem assemble (alen plen clen align : Nat) (noack big : Bool) (seq : Byte) :
    Statement (.assemble alen plen clen align noack big seq) := by
  simp only [Statement, Instr.row, rowAssemble, OpcodeRow.fits, encode, beq_iff_eq]
  apply BitVec.eq_of_getLsbD_eq
  intro i hi
  simp only [BitVec.getLsbD_and]
  interval_cases i <;> simp [fieldAt]

theorem parse (alen plen clen align rawlen : Nat) : Statement (.parse alen plen clen align rawlen) := by
  simp only [Statement, Instr.row, rowParse, OpcodeRow.fits, encode, beq_iff_eq]
  apply BitVec.eq_of_getLsbD_eq
  intro i hi
  simp only [BitVec.getLsbD_and]
  interval_cases i <;> simp [fieldAt]

end Sys2Proof.Laws.FixedBits
end

