-- ==== Sys2Proof/Tests/Slice0.lean ====
section
/-! SUPPORT. Small tests and, for every statement of Obligations.lean that has hypotheses, states and operands
that meet them. Every expected value is from 95_test_vectors.md (the row is named) or from the bit tables of
30_encoding.md. -/

set_option Elab.async false

namespace Sys2Proof.Tests

open Sys2Proof Sys2Proof.Machine Sys2Proof.Safety

/-! ### Helpers -/

/-- A lane array that starts with these bytes and holds 0 after them. -/
def lanesOf (n : Nat) (bytes : List Byte) : Lanes n := memWrite (Vector.replicate n 0#8) 0 bytes

/-- The state in which the host has issued this word and these lanes, the next turn the block's. -/
def loaded (w : Nat) (a p f : List Byte) : State :=
  ({ State.reset with
     req := { cmd := 0#32, aIn := lanesOf 32 a, pIn := lanesOf 32 p, fIn := lanesOf 127 f } } : State).withFetchWord 32 w

/-- The response after one step from a state, where the step answers a next state. -/
def answer (s : State) : Option Response :=
  match step s with
  | .next t => some t.rsp
  | _ => none

/-- The state a meaning ends in, or the reset state where it stops. -/
def ended (o : Host.Outcome State Fault Refusal) : State :=
  match o with
  | .next t => t
  | _ => State.reset

/-- The outcome is a next state. -/
def isNext (o : Host.Outcome State Fault Refusal) : Bool :=
  match o with
  | .next _ => true
  | _ => false

theorem eq_next_ended {o : Host.Outcome State Fault Refusal} (h : isNext o = true) : o = .next (ended o) := by
  cases o with
  | next t => rfl
  | fault _ => cases h
  | refused _ => cases h

/-- The address and the payload of the literal scenario (V-LIT-1). -/
def litA : List Byte := [0xE7#8, 0xE7#8, 0xE7#8]
/-- See litA. -/
def litP : List Byte := [0x01#8, 0x02#8]
/-- The buffer B of the parser's vectors, the frame of V-LIT-1. -/
def litB : List Byte := [0xAA#8, 0xE7#8, 0xE7#8, 0xE7#8, 0x01#8, 0x02#8, 0xAE#8, 0xC1#8]
/-- The literal scenario issued as ASSEMBLE. -/
def litAsm : State := loaded 0x00020832 litA litP []
/-- The literal scenario issued as PARSE. -/
def litPrs : State := loaded 0x01020833 [] [] litB
/-- The literal scenario after ASSEMBLE with a CRC of `clen` bytes. -/
def litBuilt (clen : Nat) : State := ended (exec (.assemble 3 2 clen 0 false false 0#8) litAsm)
/-- The state after the literal PARSE, with these turns to come. -/
def litDone (turns : List Turn) : State := { ended (execStep litPrs) with schedule := turns }

/-! ### Well-formedness: for each check a term it refuses -/

theorem test_wf_refuses_bits : ¬ (Instr.crcupd 16 0#8 0#16).WellFormed := by decide
theorem test_wf_refuses_assemble_alen : ¬ (Instr.assemble 64 0 1 0 false false 0#8).WellFormed := by decide
theorem test_wf_refuses_assemble_plen : ¬ (Instr.assemble 1 64 1 0 false false 0#8).WellFormed := by decide
theorem test_wf_refuses_assemble_clen : ¬ (Instr.assemble 1 0 4 0 false false 0#8).WellFormed := by decide
theorem test_wf_refuses_assemble_align : ¬ (Instr.assemble 1 0 1 8 false false 0#8).WellFormed := by decide
theorem test_wf_refuses_parse_alen : ¬ (Instr.parse 64 0 1 0 3).WellFormed := by decide
theorem test_wf_refuses_parse_plen : ¬ (Instr.parse 1 64 1 0 3).WellFormed := by decide
theorem test_wf_refuses_parse_clen : ¬ (Instr.parse 1 0 4 0 3).WellFormed := by decide
theorem test_wf_refuses_parse_align : ¬ (Instr.parse 1 0 1 8 3).WellFormed := by decide
theorem test_wf_refuses_parse_rawlen : ¬ (Instr.parse 1 0 1 0 128).WellFormed := by decide

/-- The legal-value predicate refuses every length that R6 does not admit. -/
theorem test_lengths_not_admitted :
    ¬ Instr.LengthsAdmitted 0 0 1 0 ∧ ¬ Instr.LengthsAdmitted 33 0 1 0 ∧ ¬ Instr.LengthsAdmitted 1 33 1 0 ∧
    ¬ Instr.LengthsAdmitted 1 0 0 0 ∧ ¬ Instr.LengthsAdmitted 1 0 3 0 ∧ ¬ Instr.LengthsAdmitted 1 0 1 1 := by decide

/-! ### Decoding: words written field by field, most significant field first, from R61 to R63 -/

/-- CRCIN 0xFFFF, DATA 0x31, BITS 8, OP 1 (V-CRC-2). -/
theorem test_decode_crcupd :
    decode 0b1111111111111111_00110001_1000_0001#32 = .command (.crcupd 8 0x31#8 0xFFFF#16) := by decide

/-- SEQ 0x5A, reserved 0, BIG 1, NOACK 1, ALIGN 0, CLEN 2, PLEN 2, ALEN 3, OP 2 (V-ASM-7). -/
theorem test_decode_assemble :
    decode 0b01011010_0_1_1_000_10_000010_000011_0010#32 =
      .command (.assemble 3 2 2 0 true true 0x5A#8) := by decide

/-- NOACK alone, ALIGN 5, CLEN 1, PLEN 33, ALEN 20: no field takes a neighbour's bit. -/
theorem test_decode_assemble_fields :
    decode 0b10000001_0_0_1_101_01_100001_010100_0010#32 =
      .command (.assemble 20 33 1 5 true false 0x81#8) := by decide

/-- Reserved 0, RAWLEN 67, ALIGN 0, CLEN 2, PLEN 32, ALEN 32, OP 3 (V-PRS-26). -/
theorem test_decode_parse :
    decode 0b0000_1000011_000_10_100000_100000_0011#32 = .command (.parse 32 32 2 0 67) := by decide

/-- RAWLEN 65, ALIGN 3, CLEN 1, PLEN 2, ALEN 48. -/
theorem test_decode_parse_fields :
    decode 0b0000_1000001_011_01_000010_110000_0011#32 = .command (.parse 48 2 1 3 65) := by decide

theorem test_decode_reserved_opcodes :
    decode 0x00000000#32 = .rejected (.reservedOpcode 0) ∧ decode 0x00000004#32 = .rejected (.reservedOpcode 4) ∧
    decode 0xFFFFFFFF#32 = .rejected (.reservedOpcode 15) := by decide

/-- V-ILL-7, V-ILL-8, and bit 31 of format P. -/
theorem test_decode_reserved_bits :
    decode 0x00820832#32 = .rejected .reservedBits ∧ decode 0x11020833#32 = .rejected .reservedBits ∧
    decode 0x81020833#32 = .rejected .reservedBits := by decide

/-- The words of the three worked examples, encoded. -/
theorem test_encode_worked :
    encode (.crcupd 8 0x31#8 0xFFFF#16) = 0xFFFF3181#32 ∧
    encode (.assemble 3 2 2 0 false false 0#8) = 0x00020832#32 ∧
    encode (.parse 3 2 2 0 8) = 0x01020833#32 := by decide

theorem test_decode_table_word :
    decodeTableWord 32 0xFFFF3181 = some (.crcupd 8 0x31#8 0xFFFF#16) ∧ decodeTableWord 32 0x00000000 = none := by
  decide

/-! ### One step per test -/

/-- V-CRC-2. -/
theorem test_crcupd_byte :
    (answer (loaded 0xFFFF3181 [] [] [])).map (fun r => (r.status, r.crcOut)) = some (0#4, 0xC782#16) := by
  decide +kernel

/-- V-CRC-16: three bits of an unmasked byte. -/
theorem test_crcupd_unmasked :
    (answer (loaded 0xFFFFBF31 [] [] [])).map (fun r => (r.status, r.crcOut)) = some (0#4, 0x27BA#16) := by
  decide +kernel

/-- V-ASM-1. -/
theorem test_assemble_frame :
    (answer litAsm).map (fun r => (r.pktF, r.crcOut)) = some (lanesOf 67 litB, 0xAEC1#16) := by decide +kernel

/-- V-ASM-2: a 1-byte CRC field holds the high byte. -/
theorem test_assemble_one_crc_byte :
    (answer (loaded 0x00010832 litA litP [])).map (fun r => (r.pktC, r.pktFlenBits)) =
      some (lanesOf 2 [0xAE#8], 56#10) := by decide +kernel

/-- V-PRS-12: byte 0 is not read, and the record's is the one the address selects. -/
theorem test_parse_ignores_preamble :
    (answer (loaded 0x01020833 [] [] (0x00#8 :: litB.tail))).map (fun r => (r.status, r.pktF)) =
      some (0#4, lanesOf 67 litB) := by decide +kernel

/-- V-PRS-18: a wrong 1-byte CRC field. -/
theorem test_parse_mismatch :
    answer (loaded 0x00E10833 [] [] [0xAA#8, 0xE7#8, 0xE7#8, 0xE7#8, 0x01#8, 0x02#8, 0xAF#8]) =
      some (failure 1#4) := by decide +kernel

/-- V-PRI-3: PLEN is checked before ALEN and CLEN. -/
theorem test_check_order : answer (loaded 0x00008402 [] [] []) = some (failure 2#4) := by decide +kernel

/-- V-ILL-1: the all-zero word. -/
theorem test_illegal_word : answer (loaded 0x00000000 [] [] []) = some (failure 7#4) := by decide +kernel

/-- Program P1, first command, through ISSUE, EXEC and READ. -/
theorem test_crcseq_one_byte :
    (crcseq [0x31#8] State.reset).map Prod.fst = some 0xC782#16 := by decide +kernel

/-- Program P3, its last try. -/
theorem test_tryparse_one_length :
    (tryparse 3 2 8 (lanesOf 127 litB) 2 2 State.reset).map (fun x => x.1.map Prod.fst) = some (some 2) := by
  decide +kernel

/-- The line of program P2, read from its text (R69). -/
theorem test_assembly_text :
    assembleText "parse alen=3, plen=2, clen=2, rawlen=8".toList = some (.parse 3 2 2 0 8) := by decide +kernel

/-- Program P4's `crcbits crc=0xEDD1, data=0xB5, bits=3` masks DATA to 0xA0 (R70). -/
theorem test_assembly_crcbits :
    assembleText "crcbits bits=3, crc=0xEDD1, data=0xB5".toList = some (.crcupd 3 0xA0#8 0xEDD1#16) := by
  decide +kernel

/-- An operand outside its range, and one the mnemonic lacks, are refused (R69, log 13). -/
theorem test_assembly_refuses :
    assembleText "crcupd crc=0, data=0, bits=9".toList = none ∧
    assembleText "crcupd crc=0, data=0, bits=8, plen=1".toList = none := by decide +kernel

/-! ### Witnesses: the hypotheses of each statement can be met -/

/-- DecodeReadsEveryFieldUnsigned, EncodeOfDecodeIsTheWord and DecodeAcceptsExactlyTheOpcodeMap: every field at
its largest value, and words one bit away from a row. -/
theorem witness_decode_clauses :
    decode 0xFFFFFFF1#32 = .command (.crcupd 15 0xFF#8 0xFFFF#16) ∧
    decode 0xFF7FFFF2#32 = .command (.assemble 63 63 3 7 true true 0xFF#8) ∧
    decode 0x0FFFFFF3#32 = .command (.parse 63 63 3 7 127) ∧
    decode 0x00000001#32 = .command (.crcupd 0 0#8 0#16) ∧
    decode 0x00000002#32 = .command (.assemble 0 0 0 0 false false 0#8) ∧
    decode 0x00000003#32 = .command (.parse 0 0 0 0 0) ∧
    decode 0x00800002#32 = .rejected .reservedBits ∧ decode 0x10000003#32 = .rejected .reservedBits ∧
    decode 0x80000003#32 = .rejected .reservedBits := by decide

/-- DecodeOfEncodeIsTheCommand, for each constructor at the largest field values. -/
theorem witness_well_formed :
    (Instr.crcupd 15 0xFF#8 0xFFFF#16).WellFormed ∧ (Instr.assemble 63 63 3 7 true true 0xFF#8).WellFormed ∧
    (Instr.parse 63 63 3 7 127).WellFormed := by decide

/-- ReservedWordsEndIllegal, and DecodeAcceptsExactlyTheOpcodeMap's last clause: each kind of reserved word. -/
theorem witness_reserved_words :
    ∀ w ∈ [0x00000000, 0x00000004, 0x0000000F, 0x00800002, 0x10000003, 0x80000003],
      let s := loaded w [] [] []
      let op := s.req.cmd.toNat % 16
      op = 0 ∨ 4 ≤ op ∨ (op = 2 ∧ s.req.cmd.toNat / 2 ^ 23 % 2 = 1) ∨
        (op = 3 ∧ s.req.cmd.toNat / 2 ^ 28 ≠ 0) := by decide +kernel

/-- CrcUpdateIsTheRuleLoop, EngineIsBitSerial, CrcupdResult (first clause), MaskedByteFoldsItsHighBits: the two
ends of the bit count, with a masked byte for each. -/
theorem witness_bit_counts :
    (1 ≤ 1 ∧ 1 ≤ 8 ∧ 0x80#8 &&& maskHigh 1 = 0x80#8) ∧ (1 ≤ 8 ∧ 8 ≤ 8 ∧ 0xFF#8 &&& maskHigh 8 = 0xFF#8) := by decide

theorem witness_masked : masked 1 0x80#8 ∧ masked 3 0xA0#8 ∧ masked 8 0xFF#8 ∧ ¬ masked 3 0xB5#8 := by
  unfold masked
  decide

/-- UnmaskedBitsStayInTheResult. -/
theorem witness_partial_counts : (1 ≤ 1 ∧ 1 < 8) ∧ (1 ≤ 7 ∧ 7 < 8) := by decide

/-- CrcupdResult, second clause: the counts next to the legal range and the largest the field holds. -/
theorem witness_bad_bit_counts : ∀ bits ∈ [0, 9, 15], bits = 0 ∨ 9 ≤ bits := by decide

/-- CrcIsLinear. -/
theorem witness_equal_lengths : [0x31#8, 0x32#8].length = [0x00#8, 0x80#8].length := by decide

/-- SingleBitErrorRemainder: the first and the last byte and bit of 64 bytes, and the ends of the two ranges. -/
theorem witness_error_positions :
    (0 < 64 ∧ 0 < 8) ∧ (63 < 64 ∧ 7 < 8) ∧ 0 ≤ 560 ∧ 560 ≤ 560 ∧ 568 ≤ 568 := by decide

/-- SingleBitFlipChangesBothCrcBytes: the ends of the longest list, and a list of one byte. -/
theorem witness_flips :
    (let s : List Byte := List.replicate 64 0x5A#8
     s.length ≤ 64 ∧ 0 < s.length ∧ 63 < s.length) ∧ [0xE7#8].length ≤ 64 ∧ 0 < [0xE7#8].length ∧ 7 < 8 := by
  decide

/-- The admitted lengths at their ends, for every statement that assumes them. -/
theorem witness_lengths :
    Instr.LengthsAdmitted 1 0 1 0 ∧ Instr.LengthsAdmitted 32 32 2 0 ∧ Instr.LengthsAdmitted 3 2 2 0 := by decide

/-- ResidueIsZero, second clause: the literal frame. -/
theorem witness_residue :
    Instr.LengthsAdmitted 3 2 2 0 ∧ exec (.assemble 3 2 2 0 false false 0#8) litAsm = .next (litBuilt 2) :=
  ⟨by decide, eq_next_ended (by decide +kernel)⟩

/-- CrcupdDependsOnItsWordOnly: two states of one CRCUPD word that differ elsewhere. -/
theorem witness_same_crcupd_word :
    let s := loaded 0xFFFF3181 [] [] []
    let t := loaded 0xFFFF3181 litA litP litB
    s.req.cmd = t.req.cmd ∧ s.req.cmd.toNat % 16 = 1 ∧ s ≠ t := by decide +kernel

/-- AssembleRejectsInOrder and ParseRejectsInOrder: each clause at the ends of its range, no value in two. -/
theorem witness_rejections :
    (∀ align ∈ [1, 7], align ≠ 0) ∧ (∀ plen ∈ [33, 63], 33 ≤ plen) ∧
    (∀ alen ∈ [0, 33, 63], 32 ≤ 32 ∧ (alen = 0 ∨ 33 ≤ alen)) ∧
    (∀ clen ∈ [0, 3], 0 ≤ 32 ∧ 1 ≤ 32 ∧ 32 ≤ 32 ∧ (clen = 0 ∨ 3 ≤ clen)) ∧
    (∀ rawlen ∈ [0, 66], Instr.LengthsAdmitted 32 32 2 0 ∧ rawlen < 1 + 32 + 32 + 2) := by decide

/-- AssembleReadsOnlyItsLanes: two states that agree on the lanes read and differ on the next ones. -/
theorem witness_assemble_lanes :
    let s := loaded 0x00020832 litA litP []
    let t := loaded 0x00020832 (litA ++ [0x99#8]) (litP ++ [0x77#8]) litB
    (∀ i, i < 3 → laneAt s.req.aIn i = laneAt t.req.aIn i) ∧ (∀ i, i < 2 → laneAt s.req.pIn i = laneAt t.req.pIn i) ∧
    s ≠ t := by decide +kernel

/-- OrPlacementIsWriting and EitherCrcByteChoiceRoundTrips, their premises on the lists. -/
theorem witness_lists :
    Instr.LengthsAdmitted 3 2 1 0 ∧ litA.length = 3 ∧ litP.length = 2 ∧
    (∀ i, i < 7 → laneAt (lanesOf 127 [0xAA#8, 0xE7#8, 0xE7#8, 0xE7#8, 0x01#8, 0x02#8, 0xC1#8]) i =
      laneAt (buildFrame .low 3 2 1 litA litP) i) ∧
    (∀ i, i < 8 → laneAt (lanesOf 127 litB) i = laneAt (buildFrame .high 3 2 2 litA litP) i) := by decide +kernel

/-- ParseAcceptsExactlyTheRightCrc: a buffer with the right CRC (V-PRS-1, RAWLEN = FL) and one with a wrong one. -/
theorem witness_parse_crc :
    Instr.LengthsAdmitted 3 2 2 0 ∧ 1 + 3 + 2 + 2 ≤ 8 ∧ hiByte (crc16 (litA ++ litP)) = 0xAE#8 ∧
    loByte (crc16 (litA ++ litP)) = 0xC1#8 ∧ laneAt litPrs.req.fIn 6 = 0xAE#8 ∧ laneAt litPrs.req.fIn 7 = 0xC1#8 ∧
    laneAt (loaded 0x01020833 [] [] (litB.take 7)).req.fIn 7 ≠ 0xC1#8 := by decide +kernel

/-- ParseReadsOnlyItsLanes: two states that agree on F_IN[1..7] and differ at lanes 0 and 8 (V-PRS-13, V-PRS-19). -/
theorem witness_parse_lanes :
    let t := loaded 0x01020833 litA [] (0x55#8 :: litB.tail ++ [0x12#8])
    (∀ i, i < 8 → 1 ≤ i → laneAt litPrs.req.fIn i = laneAt t.req.fIn i) ∧ litPrs ≠ t := by decide +kernel

/-- AssembleThenParseRoundTrip: the literal frame in the raw buffer. -/
theorem witness_round_trip :
    Instr.LengthsAdmitted 3 2 2 0 ∧ exec (.assemble 3 2 2 0 false false 0#8) litAsm = .next (litBuilt 2) ∧
    holdsFrame litPrs.req.fIn (litBuilt 2).rsp ∧ 1 + 3 + 2 + 2 ≤ 8 := by
  refine ⟨by decide, eq_next_ended (by decide +kernel), ?_, by decide⟩
  unfold holdsFrame
  decide +kernel

/-- EqualSumHypothesesAgree: (3, 2, 2) and (4, 1, 2) over one buffer, and a frame that passes with CLEN = 2
(V-PRS-1, V-PRS-3). -/
theorem witness_equal_sums :
    Instr.LengthsAdmitted 3 2 2 0 ∧ Instr.LengthsAdmitted 4 1 2 0 ∧ 3 + 2 = 4 + 1 ∧
    (∃ t, exec (.parse 3 2 2 0 8) litPrs = .next t ∧ t.rsp.status = 0#4) ∧
    (∃ t, exec (.parse 4 1 2 0 8) litPrs = .next t) :=
  ⟨by decide, by decide, by decide, ⟨_, eq_next_ended (by decide +kernel), by decide +kernel⟩,
    ⟨_, eq_next_ended (by decide +kernel)⟩⟩

/-- TamperedFrameIsRejected: byte 5 bit 0 with CLEN = 2 (V-TMP-1), and byte 1 bit 7 with CLEN = 1. -/
theorem witness_tampered :
    (exec (.assemble 3 2 2 0 false false 0#8) litAsm = .next (litBuilt 2) ∧
      ∀ i, i < 8 →
        laneAt (lanesOf 127 [0xAA#8, 0xE7#8, 0xE7#8, 0xE7#8, 0x01#8, 0x03#8, 0xAE#8, 0xC1#8]) i =
          if i = 5 then laneAt (litBuilt 2).rsp.pktF i ^^^ (1#8 <<< 0) else laneAt (litBuilt 2).rsp.pktF i) ∧
    (exec (.assemble 3 2 1 0 false false 0#8) litAsm = .next (litBuilt 1) ∧
      ∀ i, i < 7 →
        laneAt (lanesOf 127 [0xAA#8, 0x67#8, 0xE7#8, 0xE7#8, 0x01#8, 0x02#8, 0xAE#8]) i =
          if i = 1 then laneAt (litBuilt 1).rsp.pktF i ^^^ (1#8 <<< 7) else laneAt (litBuilt 1).rsp.pktF i) :=
  ⟨⟨eq_next_ended (by decide +kernel), by decide +kernel⟩,
    ⟨eq_next_ended (by decide +kernel), by decide +kernel⟩⟩

/-- ParsedFrameIsTheBuffer. -/
theorem witness_parsed_frame :
    ∃ t, exec (.parse 3 2 2 0 8) (loaded 0x01020833 [] [] (0x55#8 :: litB.tail)) = .next t ∧ t.rsp.status = 0#4 :=
  ⟨_, eq_next_ended (by decide +kernel), by decide +kernel⟩

/-- ResponsesKeepThePacketInvariants, StatusCodesByCommand, GoodExactlyForDefinedOutcomes,
FailingCommandWritesOnlyItsStatus: an OK and a failing run of each command, and admitted commands. -/
theorem witness_outcomes :
    (∀ i ∈ [Instr.crcupd 8 0x31#8 0xFFFF#16, .assemble 3 2 2 0 false false 0#8, .parse 3 2 2 0 8],
      (ended (exec i litPrs)).rsp.status = 0#4) ∧
    (∀ i ∈ [Instr.crcupd 9 0x31#8 0xFFFF#16, .assemble 3 2 2 1 false false 0#8, .parse 3 2 2 0 7],
      (ended (exec i litPrs)).rsp.status ≠ 0#4) := by decide +kernel

theorem witness_admitted :
    (Instr.crcupd 1 0x31#8 0xFFFF#16).Admitted ∧ (Instr.assemble 32 32 2 0 true true 0xFF#8).Admitted ∧
    (Instr.parse 1 0 1 0 3).Admitted ∧ (Instr.parse 32 32 2 0 127).Admitted := by decide

theorem witness_execStep_answers :
    (∃ t, execStep litAsm = .next t ∧ t.rsp.status = 0#4) ∧
    (∃ t, execStep (loaded 0 [] [] []) = .next t ∧ t.rsp.status ≠ 0#4) :=
  ⟨⟨_, eq_next_ended (by decide +kernel), by decide +kernel⟩,
    ⟨_, eq_next_ended (by decide +kernel), by decide +kernel⟩⟩

/-- GoodRunExactlyWhenReadsAndStatusesAre: EXEC and READ of the literal PARSE are a good run. -/
theorem witness_good_run : goodRun 2 { litPrs with schedule := [.exec, .read] } = true := by decide +kernel

/-- The same statement's other side: a READ that comes too early, and an EXEC that ends with ILLEGAL_COMMAND. -/
theorem witness_bad_runs :
    goodRun 1 { litPrs with schedule := [.read] } = false ∧ goodRun 1 (loaded 0 [] [] []) = false := by
  decide +kernel

/-- FirstFailingCheckGivesTheStatus: both branches. -/
theorem witness_checks : check litPrs.req.cmd = none ∧ check 0x00860832#32 = some .illegalCommand := by decide +kernel

/-- ResponseDependsOnTheRequestOnly: one request, two states. -/
theorem witness_same_request :
    litPrs.req = (litDone [.read]).req ∧ litPrs ≠ litDone [.read] := by decide +kernel

/-- StepRunsTheDecodedCommand, HostProtocolSteps (EXEC clauses), CommandInFlightIsExecuted: a command in flight,
whatever the schedule. -/
theorem witness_in_flight :
    litPrs.busy = true ∧ litPrs.rspValid = false ∧ decode litPrs.req.cmd = .command (.parse 3 2 2 0 8) ∧
    litPrs.schedule = .exec :: [] := by decide +kernel

theorem witness_reserved_in_flight :
    ∀ turns ∈ [[], [.issue Request.zero], [.exec]],
      let s : State := { loaded 0 [] [] [] with schedule := turns }
      s.busy = true ∧ s.schedule = turns ∧ decode s.req.cmd = .rejected (.reservedOpcode 0) := by decide +kernel

theorem witness_in_flight_turns :
    ∀ turns ∈ [[], [.issue Request.zero], [.exec], [.read], [.reset]],
      let s : State := { litPrs with schedule := turns }
      s.busy = true ∧ s.rspValid = false ∧ s.schedule = turns ∧ decode s.req.cmd = .command (.parse 3 2 2 0 8) := by
  decide +kernel

/-- HostProtocolSteps: an ISSUE that is enabled, and a READ that is. -/
theorem witness_host_steps :
    (let s : State := { State.reset with schedule := [.issue litPrs.req] }
     s.busy = false ∧ s.schedule = .issue litPrs.req :: []) ∧
    (litDone [.read]).rspValid = true ∧ (litDone [.read]).schedule = .read :: [] := by decide +kernel

/-- ReadWithoutResponseFaults: after reset, and between ISSUE and EXEC. -/
theorem witness_bad_reads :
    (let s : State := { State.reset with schedule := [.read] }
     s.rspValid = false ∧ s.schedule = .read :: []) ∧
    (let s : State := { litPrs with schedule := [.read] }
     s.rspValid = false ∧ s.schedule = .read :: []) := by decide +kernel

/-- ResetAbandonsTheCommand: program P6, a reset between ISSUE and EXEC. -/
theorem witness_reset_in_flight :
    let s : State := { litAsm with schedule := [.reset, .exec] }
    s.busy = true ∧ s.schedule = .reset :: [.exec] := by decide +kernel

/-- ResponseLatchIsImmutable and EveryStepKeepsTheInvariant: the state after the literal PARSE meets the
invariant, holds a valid response and takes a step that is no ISSUE and no reset. -/
theorem witness_inv_with_response :
    Inv (litDone [.read]) ∧ (litDone [.read]).rspValid = true ∧
    (∃ t, step (litDone [.read]) = .next t) ∧ (litDone [.read]).schedule = [.read] := by
  have hr : (litDone [.read]).reads = [] := by decide +kernel
  refine ⟨⟨fun h => absurd h (by decide +kernel), fun _ => by decide +kernel, ?_⟩, by decide +kernel,
    ⟨_, eq_next_ended (by decide +kernel)⟩, by decide +kernel⟩
  rw [hr]
  exact fun _ h => absurd h List.not_mem_nil

theorem witness_inv_in_flight : Inv litPrs ∧ ∃ t, step litPrs = .next t := by
  have hr : litPrs.reads = [] := by decide +kernel
  refine ⟨⟨fun _ => by decide +kernel, fun h => absurd h (by decide +kernel), ?_⟩,
    ⟨_, eq_next_ended (by decide +kernel)⟩⟩
  rw [hr]
  exact fun _ h => absurd h List.not_mem_nil

/-- OnlyIssueAndResetWriteTheRequest: an ISSUE and a reset that change the request. -/
theorem witness_request_changes :
    (let s : State := { State.reset with schedule := [.issue litPrs.req] }
     (ended (step s)).req ≠ s.req) ∧
    (let s : State := { litPrs with schedule := [.reset] }
     (ended (step s)).req ≠ s.req) := by decide +kernel

/-- OnlyExecMakesAResponse. -/
theorem witness_response_appears :
    ∃ t, step litPrs = .next t ∧ litPrs.rspValid = false ∧ t.rspValid = true :=
  ⟨_, eq_next_ended (by decide +kernel), by decide +kernel, by decide +kernel⟩

/-- CrcseqComputesTheCrc and TryparseStopsAtTheFirstOk: with no response held, and with one. -/
theorem witness_not_busy : State.reset.busy = false ∧ (litDone []).busy = false := by decide +kernel

/-- AssembledCommandsAreLegal: a line of each mnemonic, the operands at the ends of their ranges. -/
theorem witness_assembled :
    assembleLine ⟨.crcupd, [(.crc, 65535), (.data, 255), (.bits, 1)]⟩ = some (.crcupd 1 0xFF#8 0xFFFF#16) ∧
    assembleLine ⟨.assemble, [(.alen, 32), (.plen, 32), (.clen, 2), (.seq, 255), (.noack, 1), (.big, 1)]⟩ =
      some (.assemble 32 32 2 0 true true 0xFF#8) ∧
    assembleLine ⟨.parse, [(.alen, 1), (.plen, 0), (.clen, 1), (.rawlen, 0)]⟩ = some (.parse 1 0 1 0 0) ∧
    assembleLine ⟨.crcbyte, [(.crc, 0), (.data, 0)]⟩ = some (.crcupd 8 0#8 0#16) ∧
    assembleLine ⟨.crcbits, [(.crc, 0), (.data, 255), (.bits, 8)]⟩ = some (.crcupd 8 0xFF#8 0#16) := by
  decide +kernel

/-- InstancesAreIndependent: the second of two instances takes a step. -/
theorem witness_two_blocks : ∃ q, stepAt [State.reset, litPrs] 1 = some (.next q) := by
  obtain ⟨t, ht⟩ : ∃ t, step litPrs = .next t := ⟨_, eq_next_ended (by decide +kernel)⟩
  exact ⟨[State.reset, t], by simp [stepAt, ht]⟩

end Sys2Proof.Tests
end

section
/-! The lemmas of 10_state.md's two statements: what the lanes beyond a packet's lengths hold, how a command can
end, and what one step does to the state. -/

namespace Sys2Proof.Proofs

open Sys2Proof Sys2Proof.Machine Sys2Proof.Safety

/-! ### Lanes beyond what was written -/

theorem laneAt_memWrite_of_le {n : Nat} (L : Lanes n) {i j : Nat} {s : List Byte} (hn : i + s.length ≤ n)
    (hj : i + s.length ≤ j) : laneAt (memWrite L i s) j = laneAt L j := by
  rw [laneAt_memWrite L i s hn, if_neg (by omega)]

/-- A list written to zeroed lanes leaves every lane past its end zero (R25). -/
theorem laneAt_memWrite_zeros_of_le {n j : Nat} {s : List Byte} (hn : s.length ≤ n) (hj : s.length ≤ j) :
    laneAt (memWrite (Vector.replicate n (0#8 : Byte)) 0 s) j = 0#8 := by
  rw [laneAt_memWrite_of_le _ (by omega) (by omega), laneAt_replicate_zero]

/-- The frame's lanes from `FL` up are zero: each of its four writes ends at or before `FL`. -/
theorem laneAt_buildFrame_of_frameLength_le (which : Config.Crc1Byte) {alen plen clen : Nat} {A P : List Byte}
    (ha : A.length = alen) (hp : P.length = plen) (hc : clen = 1 ∨ clen = 2)
    (hn : frameLength alen plen clen ≤ 67) {j : Nat} (hj : frameLength alen plen clen ≤ j) :
    laneAt (buildFrame which alen plen clen A P) j = 0#8 := by
  have hcrc := crcField_length which hc (crc16 (A ++ P))
  simp only [frameLength] at hn hj
  simp only [buildFrame, crcOffset]
  rw [laneAt_memWrite_of_le _ (by omega) (by omega), laneAt_memWrite_of_le _ (by omega) (by omega),
    laneAt_memWrite_of_le _ (by omega) (by omega),
    laneAt_memWrite_zeros_of_le (by simp) (by simp only [List.length_singleton]; omega)]

/-! ### The packet invariants -/

/-- `build_packet` meets the Packet invariants for every admitted combination of lengths (R24). -/
theorem packetInvariants_buildPacket (which : Config.Crc1Byte) {alen plen clen align : Nat} (seq : Byte)
    (noack big : Bool) {A P : List Byte} (hadm : Instr.LengthsAdmitted alen plen clen align)
    (ha : A.length = alen) (hp : P.length = plen) :
    PacketInvariants (buildPacket which alen plen clen seq noack big A P) := by
  obtain ⟨-, hplen, ⟨hlo, hhi⟩, hclen⟩ := hadm
  have hfl : frameLength alen plen clen ≤ 67 := by simp only [frameLength]; omega
  have hcrc := crcField_length which hclen (crc16 (A ++ P))
  constructor <;> simp (disch := omega) only [buildPacket, BitVec.toNat_ofNat, Nat.mod_eq_of_lt]
  case flenBytes => rfl
  case clen => exact hclen
  case plen => exact hplen
  case alen => exact ⟨hlo, hhi⟩
  case zeroA => exact fun i hi => laneAt_memWrite_zeros_of_le (by omega) (by omega)
  case zeroP => exact fun i hi => laneAt_memWrite_zeros_of_le (by omega) (by omega)
  case zeroC => exact fun i hi => laneAt_memWrite_zeros_of_le (by omega) (by omega)
  case zeroF => exact fun i hi => laneAt_buildFrame_of_frameLength_le which ha hp hclen hfl hi

/-- The Packet invariants do not speak of the status. -/
theorem packetInvariants_withStatus {r : Response} (h : PacketInvariants r) (st : Status) :
    PacketInvariants (r.withStatus st) := { h with }

/-! ### How a command can end -/

theorem failedResponse_eq_failure (st : Status) : failedResponse st = failure st.code := rfl

theorem code_ne_zero {st : Status} (h : st ≠ .ok) : st.code ≠ 0#4 :=
  fun hc => h (Status.code_injective hc)

/-- What R24 and R25 ask of the response with which a command ends with OK. -/
def OkResponse : Instr → Response → Prop
  | .crcupd _ _ _, r => r = { Response.zero with crcOut := r.crcOut }
  | .assemble _ _ _ _ _ _ _, r => PacketInvariants r
  | .parse _ _ _ _ _, r => PacketInvariants r

/-- Every command ends, from every state: by raising a status that is not OK, or with OK and a response that R24
and R25 admit. -/
theorem exec_raises_or_endsOk (i : Instr) (s : State) :
    (∃ st, st ≠ .ok ∧ exec i s = .next (s.raise st)) ∨
    (∃ r, OkResponse i (r.withStatus .ok) ∧ exec i s = .next (s.finishOk r)) := by
  cases i with
  | crcupd bits data crcin =>
    obtain ⟨st, hst, he⟩ | ⟨-, he⟩ := execCrcupd_cases bits data crcin s
    · exact .inl ⟨st, by simp [bitcountStatus_eq_some hst], he⟩
    · exact .inr ⟨{ Response.zero with crcOut := crcUpdate crcin data bits }, rfl, he⟩
  | assemble alen plen clen align noack big seq =>
    obtain ⟨st, hst, he⟩ | ⟨hnone, he⟩ := execAssemble_cases alen plen clen align noack big seq s
    · exact .inl ⟨st, by obtain rfl | rfl | rfl := lengthStatus_eq_some hst <;> decide, he⟩
    · exact .inr ⟨_, packetInvariants_withStatus (packetInvariants_buildPacket _ _ _ _
        (lengthStatus_eq_none.mp hnone) (memRead_length _ _ _) (memRead_length _ _ _)) _, he⟩
  | parse alen plen clen align rawlen =>
    obtain ⟨st, hst, he⟩ | ⟨hnone, -, he⟩ | ⟨-, -, he⟩ := execParse_cases alen plen clen align rawlen s
    · exact .inl ⟨st, by obtain rfl | rfl | rfl | rfl := parseStatus_eq_some hst <;> decide, he⟩
    · exact .inr ⟨_, packetInvariants_withStatus (packetInvariants_buildPacket _ _ _ _
        (parseStatus_eq_none.mp hnone).1 (memRead_length _ _ _) (memRead_length _ _ _)) _, he⟩
    · exact .inl ⟨.crcMismatch, by decide, he⟩

/-- Settles O32: a command that raises ends with its failure response, and one that ends with OK has a response
that R24 and R25 admit. -/
theorem responsesKeepThePacketInvariants : Obligations.ResponsesKeepThePacketInvariants := by
  intro i s t h
  obtain ⟨st, hst, he⟩ | ⟨r, hr, he⟩ := exec_raises_or_endsOk i s
  · obtain rfl : s.raise st = t := Host.Outcome.next.inj (he.symm.trans h)
    exact ⟨fun hok => absurd hok (code_ne_zero hst), fun _ => failedResponse_eq_failure st⟩
  · obtain rfl : s.finishOk r = t := Host.Outcome.next.inj (he.symm.trans h)
    refine ⟨fun _ => ?_, fun hne => absurd rfl hne⟩
    cases i <;> exact hr

/-! ### What one step does -/

/-- Everything a step that answers a next state can be: EXEC of a command in flight, or, with its turn and the
latch bits that enable it, waiting, ISSUE, an unused turn of the block, READ or reset (R160, R162). -/
theorem step_next_cases {s t : State} (h : step s = .next t) :
    (∃ u, s.busy = true ∧ nextMove s = .exec u ∧ execStep u = .next t) ∨
    (s.schedule = [] ∧ s.busy = false ∧ t = s) ∨
    (∃ r rest, s.schedule = .issue r :: rest ∧ s.busy = false ∧ t = s.nextTurn.issue r) ∨
    (∃ rest, s.schedule = .exec :: rest ∧ s.busy = false ∧ t = s.nextTurn) ∨
    (∃ rest, s.schedule = .read :: rest ∧ s.rspValid = true ∧ t = s.nextTurn.readOut) ∨
    (∃ rest, s.schedule = .reset :: rest ∧ t = s.nextTurn.resetBlock) := by
  have ofExec {u : State} (hm : nextMove s = .exec u) : execStep u = .next t := (step_of_exec hm).symm.trans h
  have ofHost {u : State} (hm : nextMove s = .host u) : t = u :=
    (Host.Outcome.next.inj ((step_of_host hm).symm.trans h)).symm
  obtain ⟨hs, hb, hm⟩ | ⟨-, hb, hm⟩ | ⟨-, -, -, hb, hm⟩ | ⟨r, rest, hs, hb, hm⟩ | ⟨-, -, hb, hm⟩ |
    ⟨rest, hs, hb, hm⟩ | ⟨rest, hs, hv, hm⟩ | ⟨-, -, -, hm⟩ | ⟨rest, hs, hm⟩ := nextMove_cases s
  · exact .inr (.inl ⟨hs, hb, (Host.Outcome.next.inj ((step_of_idle hm).symm.trans h)).symm⟩)
  · exact .inl ⟨_, hb, hm, ofExec hm⟩
  · exact .inl ⟨_, hb, hm, ofExec hm⟩
  · exact .inr (.inr (.inl ⟨r, rest, hs, hb, ofHost hm⟩))
  · exact .inl ⟨_, hb, hm, ofExec hm⟩
  · exact .inr (.inr (.inr (.inl ⟨rest, hs, hb, ofHost hm⟩)))
  · exact .inr (.inr (.inr (.inr (.inl ⟨rest, hs, hv, ofHost hm⟩))))
  · cases (step_of_badRead hm).symm.trans h
  · exact .inr (.inr (.inr (.inr (.inr ⟨rest, hs, ofHost hm⟩))))

/-- Settles O45: a valid response excludes a command in flight, so no EXEC is enabled, and the remaining steps
(waiting, an unused turn of the block, READ) leave the response latch alone. -/
theorem responseLatchIsImmutable : Obligations.ResponseLatchIsImmutable := by
  intro s t hinv hv h hissue hreset
  obtain ⟨u, hb, -, -⟩ | ⟨-, -, rfl⟩ | ⟨r, rest, hs, -, -⟩ | ⟨rest, -, -, rfl⟩ | ⟨rest, -, -, rfl⟩ |
    ⟨rest, hs, -⟩ := step_next_cases h
  · simp [hinv.exclusive hb] at hv
  · exact ⟨hv, rfl⟩
  · exact absurd hs (hissue r rest)
  · exact ⟨by simpa using hv, by simp⟩
  · exact ⟨by simpa using hv, by simp⟩
  · exact absurd hs (hreset rest)

end Sys2Proof.Proofs
end

section
/-! The lemmas of 20_memory.md's statement: placing bytes by OR on zero lanes is writing them (R48). -/

namespace Sys2Proof.Proofs

open Sys2Proof Sys2Proof.Machine

/-- An OR on zero lanes is a write: the lanes above the one just placed are still zero for the next byte. -/
theorem memOr_eq_memWrite_of_zero {n : Nat} (L : Lanes n) {i : Nat} (s : List Byte)
    (hzero : ∀ j, i ≤ j → j < i + s.length → laneAt L j = 0#8) : memOr L i s = memWrite L i s := by
  induction s generalizing L i with
  | nil => rfl
  | cons b s ih =>
    simp only [List.length_cons] at hzero
    have hfirst : laneAt L i = 0#8 := hzero i (by omega) (by omega)
    rw [memOr, memWrite, hfirst, BitVec.zero_or]
    refine ih _ fun j hlo hhi => ?_
    rw [laneAt_set_other _ _ (by omega)]
    exact hzero j (by omega) (by omega)

/-- Two adjoining ORs on lanes that are zero from the first one's start up are two writes: the first ends where the
second begins. -/
theorem memOr_memOr_eq_memWrite_memWrite {n : Nat} (L : Lanes n) {i : Nat} (s t : List Byte) (hn : i + s.length ≤ n)
    (hzero : ∀ j, i ≤ j → laneAt L j = 0#8) :
    memOr (memOr L i s) (i + s.length) t = memWrite (memWrite L i s) (i + s.length) t := by
  rw [memOr_eq_memWrite_of_zero L s fun j hj _ => hzero j hj]
  refine memOr_eq_memWrite_of_zero _ t fun j hj _ => ?_
  rw [laneAt_memWrite_of_le L hn hj, hzero j (by omega)]

/-- Settles O23: the preamble and the address leave the lanes from `1 + alen` up zero, and the payload and the CRC
field are placed there, one after the other. -/
theorem orPlacementIsWriting : Obligations.OrPlacementIsWriting := by
  rintro which alen plen clen align A P ⟨-, hplen, ⟨-, halen⟩, -⟩ rfl rfl
  simp only [buildFrameOr, buildFrame, crcOffset]
  refine memOr_memOr_eq_memWrite_memWrite _ P _ (by omega) fun j hj => ?_
  rw [laneAt_memWrite_of_le _ (by omega) (by omega),
    laneAt_memWrite_zeros_of_le (by simp) (by simp only [List.length_singleton]; omega)]

end Sys2Proof.Proofs
end

section
/-! The lemmas of 30_encoding.md's two statements: the rows of the opcode map (R65) as conditions on the fields of
a word, and the decoder's answer row by row. -/

namespace Sys2Proof.Proofs

open Sys2Proof Sys2Proof.Machine Sys2Proof.Safety

/-! ### Fields as numbers and as masks -/

theorem cmdField_eq_div_mod (w : CmdWord) (lo width : Nat) : cmdField w lo width = w.toNat / 2 ^ lo % 2 ^ width := by
  simp [cmdField, Nat.shiftRight_eq_div_pow]

theorem cmdField_one_eq_toNat (w : CmdWord) (lo : Nat) : cmdField w lo 1 = (w.getLsbD lo).toNat := by
  rw [cmdField_eq_div_mod, BitVec.getLsbD, Nat.toNat_testBit, pow_one]

/-- The mask of a field keeps its bits alone, so the masked word is the field's value put back in its place. -/
theorem and_fieldAt_allOnes (w : CmdWord) (lo n : Nat) :
    w &&& fieldAt (BitVec.allOnes n) lo = fieldAt (w.extractLsb' lo n) lo := by
  apply BitVec.eq_of_getLsbD_eq
  intro i hi
  simp only [fieldAt, BitVec.getLsbD_and, BitVec.getLsbD_shiftLeft, BitVec.getLsbD_setWidth,
    BitVec.getLsbD_allOnes, BitVec.getLsbD_extractLsb']
  by_cases hlo : i < lo
  · simp [hlo]
  · have hback : lo + (i - lo) = i := by omega
    rw [hback]
    ac_rfl

/-- A field inside the word loses no bit of its value. -/
theorem fieldAt_injective {n lo : Nat} (h : lo + n ≤ 32) {u v : BitVec n} (huv : fieldAt u lo = fieldAt v lo) :
    u = v := by
  apply BitVec.eq_of_getLsbD_eq
  intro i hi
  have hbit := congrArg (·.getLsbD (lo + i)) huv
  have hplace : lo + i < 32 := by omega
  have hwidth : i < 32 := by omega
  simpa [fieldAt, hplace, hwidth] using hbit

/-- Two words agree under a field's mask when the field has one value in both. -/
theorem and_fieldAt_allOnes_eq_iff {w v : CmdWord} {lo n : Nat} (h : lo + n ≤ 32) :
    w &&& fieldAt (BitVec.allOnes n) lo = v &&& fieldAt (BitVec.allOnes n) lo ↔
      cmdField w lo n = cmdField v lo n := by
  rw [and_fieldAt_allOnes, and_fieldAt_allOnes, cmdField, cmdField, BitVec.toNat_inj]
  exact ⟨fieldAt_injective h, congrArg (fieldAt · lo)⟩

/-- Two words that agree under a mask agree under each part of it. -/
theorem and_eq_and_of_submask {w v m m' : CmdWord} (h : w &&& m = v &&& m) (hsub : m &&& m' = m') :
    w &&& m' = v &&& m' := by
  rw [← hsub, ← BitVec.and_assoc, h, BitVec.and_assoc]

theorem and_or_eq_and_or_iff {w v m₁ m₂ : CmdWord} :
    w &&& (m₁ ||| m₂) = v &&& (m₁ ||| m₂) ↔ w &&& m₁ = v &&& m₁ ∧ w &&& m₂ = v &&& m₂ := by
  constructor
  · intro h
    exact ⟨and_eq_and_of_submask h (by grind), and_eq_and_of_submask h (by grind)⟩
  · rintro ⟨h₁, h₂⟩
    rw [BitVec.and_or_distrib_left, BitVec.and_or_distrib_left, h₁, h₂]

/-- The two fields a row with reserved bits fixes, the opcode and those bits (R67), under one mask. -/
theorem and_opcode_reserved_eq_iff {w v : CmdWord} {lo n : Nat} (h : lo + n ≤ 32) :
    w &&& (fieldAt (BitVec.allOnes 4) 0 ||| fieldAt (BitVec.allOnes n) lo) =
      v &&& (fieldAt (BitVec.allOnes 4) 0 ||| fieldAt (BitVec.allOnes n) lo) ↔
    cmdField w 0 4 = cmdField v 0 4 ∧ cmdField w lo n = cmdField v lo n := by
  rw [and_or_eq_and_or_iff, and_fieldAt_allOnes_eq_iff (by decide), and_fieldAt_allOnes_eq_iff h]

/-! ### The rows of the opcode map -/

theorem row_fits_iff {r : OpcodeRow} {w : CmdWord} : r.fits w ↔ w &&& r.mask = r.pattern := beq_iff_eq

theorem rowCrcupd_fits_iff {w : CmdWord} : rowCrcupd.fits w ↔ cmdField w 0 4 = 1 :=
  row_fits_iff.trans <| and_fieldAt_allOnes_eq_iff (v := 1#32) (lo := 0) (n := 4) (by decide)

theorem rowAssemble_fits_iff {w : CmdWord} : rowAssemble.fits w ↔ cmdField w 0 4 = 2 ∧ cmdField w 23 1 = 0 :=
  row_fits_iff.trans <| and_opcode_reserved_eq_iff (v := 2#32) (lo := 23) (n := 1) (by decide)

theorem rowParse_fits_iff {w : CmdWord} : rowParse.fits w ↔ cmdField w 0 4 = 3 ∧ cmdField w 28 4 = 0 :=
  row_fits_iff.trans <| and_opcode_reserved_eq_iff (v := 3#32) (lo := 28) (n := 4) (by decide)

/-! ### The decoder, row by row -/

/-- A word decodes only to a command of a row it fits. -/
theorem row_fits_of_decode {w : CmdWord} {i : Instr} (h : decode w = .command i) : i.row.fits w := by
  unfold decode at h
  split at h
  next hop =>
    obtain rfl := Decoded.command.inj h
    exact rowCrcupd_fits_iff.mpr hop
  next hop =>
    unfold decodeAssemble at h
    split at h
    · cases h
    next hbit =>
      obtain rfl := Decoded.command.inj h
      exact rowAssemble_fits_iff.mpr ⟨hop, by
        rw [cmdField_one_eq_toNat, eq_false_of_ne_true hbit, Bool.toNat_false]⟩
  next hop =>
    unfold decodeParse at h
    split at h
    · cases h
    next hbits =>
      obtain rfl := Decoded.command.inj h
      exact rowParse_fits_iff.mpr ⟨hop, not_not.mp hbits⟩
  next => cases h

theorem decode_crcupd_iff {w : CmdWord} :
    (∃ bits data crcin, decode w = .command (.crcupd bits data crcin)) ↔ rowCrcupd.fits w := by
  refine ⟨fun ⟨_, _, _, h⟩ => row_fits_of_decode h, fun h => ?_⟩
  have hop := rowCrcupd_fits_iff.mp h
  simp [decode, hop, decodeCrcupd]

theorem decode_assemble_iff {w : CmdWord} :
    (∃ alen plen clen align noack big seq, decode w = .command (.assemble alen plen clen align noack big seq)) ↔
      rowAssemble.fits w := by
  refine ⟨fun ⟨_, _, _, _, _, _, _, h⟩ => row_fits_of_decode h, fun h => ?_⟩
  obtain ⟨hop, hbit⟩ := rowAssemble_fits_iff.mp h
  rw [cmdField_one_eq_toNat, Bool.toNat_eq_zero] at hbit
  simp [decode, hop, decodeAssemble, hbit, -BitVec.getLsbD_eq_getElem]

theorem decode_parse_iff {w : CmdWord} :
    (∃ alen plen clen align rawlen, decode w = .command (.parse alen plen clen align rawlen)) ↔
      rowParse.fits w := by
  refine ⟨fun ⟨_, _, _, _, _, h⟩ => row_fits_of_decode h, fun h => ?_⟩
  obtain ⟨hop, hbits⟩ := rowParse_fits_iff.mp h
  simp [decode, hop, decodeParse, hbits]

/-- The reserved words are those that fit no row: each constructor of Instr has its row (R65). -/
theorem decode_rejected_iff {w : CmdWord} :
    (∃ why, decode w = .rejected why) ↔ ¬ rowCrcupd.fits w ∧ ¬ rowAssemble.fits w ∧ ¬ rowParse.fits w := by
  rw [← decode_crcupd_iff, ← decode_assemble_iff, ← decode_parse_iff]
  cases decode w with
  | rejected why => simp
  | command i => cases i <;> simp

/-- EXEC of a reserved word ends the command with `ILLEGAL_COMMAND` and changes nothing else (R66, R67). -/
theorem execStep_endsWith_of_rejected {s : State} {why : DecodeReject} (h : decode s.req.cmd = .rejected why) :
    execStep s = .next (endsWith s (failure 7#4)) := execStep_of_rejected h

/-- Settles O3: each clause is the decoder's answer for one row, the row's fit written as its mask and pattern. -/
theorem decodeAcceptsExactlyTheOpcodeMap : Obligations.DecodeAcceptsExactlyTheOpcodeMap := by
  intro w
  refine ⟨decode_crcupd_iff.trans row_fits_iff, decode_assemble_iff.trans row_fits_iff,
    decode_parse_iff.trans row_fits_iff, ?_, ?_⟩
  · exact decode_rejected_iff.trans
      (and_congr row_fits_iff.not (and_congr row_fits_iff.not row_fits_iff.not))
  · rintro why s h rfl
    exact execStep_endsWith_of_rejected h

/-- Settles O6: a reserved opcode is no row's, and a set reserved bit keeps the word out of its opcode's row. -/
theorem reservedWordsEndIllegal : Obligations.ReservedWordsEndIllegal := by
  intro s hres
  have hlt := s.req.cmd.isLt
  obtain ⟨why, h⟩ : ∃ why, decode s.req.cmd = .rejected why := by
    rw [decode_rejected_iff, rowCrcupd_fits_iff, rowAssemble_fits_iff, rowParse_fits_iff]
    simp only [cmdField_eq_div_mod]
    omega
  exact execStep_endsWith_of_rejected h

end Sys2Proof.Proofs
end

section
/-! The lemmas of 40_crc_engine.md's statements: the loop of R80 as a shift where no feedback occurs, what an
unmasked byte leaves behind (R87), and from these the bit-serial register (R85) and the residue (R89); then CRCUPD. -/

namespace Sys2Proof.Proofs

open Sys2Proof Sys2Proof.Machine Sys2Proof.Safety

/-! ### The loop over natural numbers -/

theorem inHighByte_toNat (d : Byte) : (inHighByte d).toNat = d.toNat * 256 := by
  have hlt := d.isLt
  rw [inHighByte, BitVec.toNat_shiftLeft, BitVec.toNat_setWidth, Nat.shiftLeft_eq]
  omega

theorem crcShift_toNat (r : Word16) :
    (crcShift r).toNat = if 32768 ≤ r.toNat then (2 * r.toNat % 65536) ^^^ 0x1021 else 2 * r.toNat % 65536 := by
  have hdouble : (shl1 r).toNat = 2 * r.toNat % 65536 := by
    rw [shl1, BitVec.toNat_shiftLeft, Nat.shiftLeft_eq, Nat.mul_comm, pow_one]
  have hmsb : r.msb ↔ 32768 ≤ r.toNat := by simp [BitVec.msb_eq_decide]
  simp only [crcShift, hmsb]
  split
  · rw [BitVec.toNat_xor, hdouble]; rfl
  · exact hdouble

theorem crcShifts_toNat (k : Nat) (r : Word16) : (crcShifts k r).toNat = engineLoop k r.toNat := by
  induction k generalizing r with
  | zero => rfl
  | succ k ih => rw [crcShifts_succ, ih, crcShift_toNat, engineLoop]

/-- Settles O7: the engine's loop, read as natural numbers, started where R80 starts it. -/
theorem crcUpdateIsTheRuleLoop : Obligations.CrcUpdateIsTheRuleLoop := by
  intro c d k _ _
  rw [crcUpdate, crcShifts_toNat, BitVec.toNat_xor, inHighByte_toNat]

/-! ### Shifts without feedback -/

/-- The high `k` bits of a word are clear. -/
def HighBitsClear {n : Nat} (k : Nat) (x : BitVec n) : Prop := ∀ i, i < k → x.getMsbD i = false

theorem highBitsClear_zero {n : Nat} (k : Nat) : HighBitsClear k (0#n) := fun i _ => by simp

/-- Where no set bit reaches the top, the loop of R80 only shifts. -/
theorem crcShifts_of_highBitsClear {k : Nat} {r : Word16} (h : HighBitsClear k r) : crcShifts k r = r <<< k := by
  induction k generalizing r with
  | zero => simp
  | succ k ih =>
    have htop : r.msb = false := h 0 (by omega)
    have hshift : crcShift r = r <<< 1 := by simp [crcShift, htop, shl1]
    have hrest : HighBitsClear k (r <<< 1) := fun i hi => by
      rw [BitVec.getMsbD_shiftLeft]; exact h _ (by omega)
    rw [crcShifts_succ, hshift, ih hrest, ← BitVec.shiftLeft_add, Nat.add_comm]

theorem crcShifts_of_zero (k : Nat) : crcShifts k 0#16 = 0#16 := by
  rw [crcShifts_of_highBitsClear (highBitsClear_zero k), BitVec.zero_shiftLeft]

theorem getMsbD_inHighByte (d : Byte) (i : Nat) : (inHighByte d).getMsbD i = d.getMsbD i := by
  simp [inHighByte]

theorem inHighByte_xor (a b : Byte) : inHighByte (a ^^^ b) = inHighByte a ^^^ inHighByte b := by
  apply BitVec.eq_of_getMsbD_eq
  intro i _
  simp [getMsbD_inHighByte]

theorem inHighByte_shiftLeft (d : Byte) (k : Nat) : inHighByte d <<< k = inHighByte (d <<< k) := by
  apply BitVec.eq_of_getMsbD_eq
  intro i _
  simp [getMsbD_inHighByte]

theorem crcShifts_inHighByte {k : Nat} {d : Byte} (h : HighBitsClear k d) :
    crcShifts k (inHighByte d) = inHighByte (d <<< k) := by
  have hword : HighBitsClear k (inHighByte d) := fun i hi => (getMsbD_inHighByte d i).trans (h i hi)
  rw [crcShifts_of_highBitsClear hword, inHighByte_shiftLeft]

/-! ### The byte beside its mask (R87) -/

theorem getMsbD_maskHigh (k i : Nat) : (maskHigh k).getMsbD i = (decide (i < 8) && decide (i < k)) := by
  have hones : (0xFF#8).getMsbD = fun i => decide (i < 8) := funext fun i => BitVec.getMsbD_allOnes
  rw [maskHigh, BitVec.getMsbD_shiftLeft, hones]
  simp only [← Bool.decide_and, decide_eq_decide]
  omega

theorem highBitsClear_and_not_maskHigh (d : Byte) (k : Nat) : HighBitsClear k (d &&& ~~~(maskHigh k)) := by
  intro i hi
  by_cases h8 : i < 8
  · simp [getMsbD_maskHigh, hi, h8]
  · exact BitVec.getMsbD_of_ge _ _ (by omega)

theorem and_xor_and_not (d m : Byte) : (d &&& m) ^^^ (d &&& ~~~m) = d := by
  apply BitVec.eq_of_getMsbD_eq
  intro i hi
  cases hd : d.getMsbD i <;> simp [hd, hi]

/-- R87 for every count: the bits below the mask ride through the loop without feedback. -/
theorem crcUpdate_eq_masked_xor_rest (c : Word16) (d : Byte) (k : Nat) :
    crcUpdate c d k = crcUpdate c (d &&& maskHigh k) k ^^^ inHighByte ((d &&& ~~~(maskHigh k)) <<< k) := by
  calc crcUpdate c d k
      = crcShifts k (c ^^^ inHighByte ((d &&& maskHigh k) ^^^ (d &&& ~~~(maskHigh k)))) := by
        rw [and_xor_and_not, crcUpdate]
    _ = crcUpdate c (d &&& maskHigh k) k ^^^ crcShifts k (inHighByte (d &&& ~~~(maskHigh k))) := by
        rw [inHighByte_xor, ← BitVec.xor_assoc, crcShifts_xor, crcUpdate]
    _ = _ := by rw [crcShifts_inHighByte (highBitsClear_and_not_maskHigh d k)]

/-- Settles O11: the law is R87's, and the example is the engine run on it. -/
theorem unmaskedBitsStayInTheResult : Obligations.UnmaskedBitsStayInTheResult :=
  ⟨fun c d k _ _ => crcUpdate_eq_masked_xor_rest c d k, by decide, by decide⟩

/-! ### The bit-serial register (R85) -/

/-- A message bit in bit 7 of a byte, every other bit clear. -/
def topBit (b : Bool) : Byte := BitVec.cons b 0#7

theorem getMsbD_topBit (b : Bool) (i : Nat) : (topBit b).getMsbD i = (decide (i = 0) && b) := by
  cases i with
  | zero => simp [topBit]
  | succ i => simp [topBit]

/-- A bit step is an iteration of R80's loop after exclusive-or of the message bit into bit 15. -/
theorem bitStep_eq_crcShift (r : Word16) (b : Bool) : bitStep r b = crcShift (r ^^^ inHighByte (topBit b)) := by
  have hpoly : crcShift (inHighByte (topBit true)) = Config.crcPoly := by decide
  cases b with
  | false => simp [bitStep, crcShift, topBit, inHighByte]
  | true =>
    rw [crcShift_xor, hpoly]
    cases h : r.msb <;> simp [bitStep, crcShift, h]

theorem crcUpdate_succ (c : Word16) (d : Byte) (k : Nat) : crcUpdate c d (k + 1) = crcShift (crcUpdate c d k) :=
  crcShifts_add k 1 _

theorem and_maskHigh_succ_and_maskHigh (d : Byte) (k : Nat) :
    d &&& maskHigh (k + 1) &&& maskHigh k = d &&& maskHigh k := by
  apply BitVec.eq_of_getMsbD_eq
  intro i hi
  by_cases hk : i < k
  · simp [getMsbD_maskHigh, hk, Nat.lt_succ_of_lt hk]
  · simp [getMsbD_maskHigh, hk]

/-- Of `k + 1` masked bits the last one is what the mask of `k` bits leaves out; `k` shifts put it on top. -/
theorem and_maskHigh_succ_shiftLeft (d : Byte) (k : Nat) :
    (d &&& maskHigh (k + 1) &&& ~~~(maskHigh k)) <<< k = topBit (d.getMsbD k) := by
  apply BitVec.eq_of_getMsbD_eq
  intro i hi
  by_cases h0 : i = 0
  · subst h0
    simpa [getMsbD_maskHigh, getMsbD_topBit] using BitVec.lt_of_getMsbD
  · simp [getMsbD_maskHigh, getMsbD_topBit, h0]

/-- One more masked bit is one more bit step. -/
theorem crcUpdate_masked_succ (c : Word16) (d : Byte) (k : Nat) :
    crcUpdate c (d &&& maskHigh (k + 1)) (k + 1) =
      bitStep (crcUpdate c (d &&& maskHigh k) k) (d.getMsbD k) := by
  rw [crcUpdate_succ, crcUpdate_eq_masked_xor_rest, and_maskHigh_succ_and_maskHigh, and_maskHigh_succ_shiftLeft,
    bitStep_eq_crcShift]

@[simp] theorem byteBits_length (d : Byte) : (byteBits d).length = 8 := by simp [byteBits]

theorem byteBits_getElem? (d : Byte) {k : Nat} (h : k < 8) : (byteBits d)[k]? = some (d.getMsbD k) := by
  simp [byteBits, h, BitVec.getMsbD]

theorem bitSerial_append (r : Word16) (bs cs : List Bool) :
    bitSerial r (bs ++ cs) = bitSerial (bitSerial r bs) cs := List.foldl_append

theorem crcUpdate_masked_eq_bitSerial (c : Word16) (d : Byte) {k : Nat} (hk : k ≤ 8) :
    crcUpdate c (d &&& maskHigh k) k = bitSerial c ((byteBits d).take k) := by
  induction k with
  | zero => simp [crcUpdate, maskHigh, inHighByte, bitSerial]
  | succ k ih =>
    rw [crcUpdate_masked_succ, ih (by omega), List.take_add_one, byteBits_getElem? d hk, bitSerial_append]
    rfl

theorem crcUpdate_eight_eq_bitSerial (c : Word16) (d : Byte) : crcUpdate c d 8 = bitSerial c (byteBits d) := by
  have hmask : d &&& maskHigh 8 = d := BitVec.and_allOnes
  have htake : (byteBits d).take 8 = byteBits d := List.take_of_length_le (byteBits_length d).le
  rw [← htake, ← crcUpdate_masked_eq_bitSerial c d le_rfl, hmask]

theorem crcFrom_eq_bitSerial (seed : Word16) (s : List Byte) : crcFrom seed s = bitSerial seed (streamBits s) := by
  induction s generalizing seed with
  | nil => rfl
  | cons b s ih =>
    rw [crcFrom_cons, ih, crcUpdate_eight_eq_bitSerial, ← bitSerial_append]
    rfl

theorem streamBits_length (s : List Byte) : (streamBits s).length = 8 * s.length := by
  simp [streamBits, Nat.mul_comm]

/-- Whole bytes and the first `k` bits of one more are the message truncated to that many bits. -/
theorem streamBits_append_take (s : List Byte) (d : Byte) (k : Nat) :
    (streamBits (s ++ [d])).take (8 * s.length + k) = streamBits s ++ (byteBits d).take k := by
  rw [← streamBits_length, show streamBits (s ++ [d]) = streamBits s ++ byteBits d by simp [streamBits],
    List.take_length_add_append]

/-- Settles O10: one more masked bit is one bit step; a whole byte is eight of them, and the rest is folding. -/
theorem engineIsBitSerial : Obligations.EngineIsBitSerial := by
  refine ⟨fun c d k _ hk => crcUpdate_masked_eq_bitSerial c d hk, crcUpdate_eight_eq_bitSerial,
    crcFrom_eq_bitSerial _, fun s d k _ hk => ?_⟩
  rw [streamBits_append_take, bitSerial_append, crcUpdate_masked_eq_bitSerial _ _ hk]
  exact congrArg (bitSerial · _) (crcFrom_eq_bitSerial _ s)

/-! ### The residue (R89) -/

theorem xor_inHighByte_hiByte (c : Word16) : c ^^^ inHighByte (hiByte c) = (loByte c).setWidth 16 := by
  apply BitVec.eq_of_getLsbD_eq
  intro i hi
  by_cases h : i < 8
  · simp [hi, h, hiByte, loByte, inHighByte]
  · have hback : 8 + (i - 8) = i := by omega
    have hhigh : i - 8 < 8 := by omega
    simp [hi, h, hiByte, loByte, inHighByte, hback, hhigh]

/-- A CRC's own high byte cancels the register's, and the low byte, with no feedback, is shifted up. -/
theorem crcUpdate_own_hiByte (c : Word16) : crcUpdate c (hiByte c) 8 = inHighByte (loByte c) := by
  have hclear : HighBitsClear 8 ((loByte c).setWidth 16) := fun i hi => by simp [hi]
  rw [crcUpdate, xor_inHighByte_hiByte, crcShifts_of_highBitsClear hclear, inHighByte]

theorem crcUpdate_inHighByte_self (d : Byte) (k : Nat) : crcUpdate (inHighByte d) d k = 0#16 := by
  rw [crcUpdate, BitVec.xor_self, crcShifts_of_zero]

theorem crc16_append_own_bytes (s : List Byte) : crc16 (s ++ [hiByte (crc16 s), loByte (crc16 s)]) = 0#16 := by
  rw [crc16, crcFrom_append, ← crc16, crcFrom_cons, crcUpdate_own_hiByte, crcFrom_cons, crcUpdate_inHighByte_self,
    crcFrom_nil]

/-! ### The frame as one byte list -/

theorem memRead_memWrite_self {n : Nat} (L : Lanes n) {i : Nat} (s : List Byte) (h : i + s.length ≤ n) :
    memRead (memWrite L i s) i s.length = s := by
  apply List.ext_getElem?
  intro j
  rw [memRead_getElem?]
  split
  next hj => simp [laneAt_memWrite L i s h, hj]
  next hj => rw [List.getElem?_eq_none (by omega)]

/-- A write leaves what is read below it. -/
theorem memRead_memWrite_of_le {n : Nat} (L : Lanes n) {i lo count : Nat} {s : List Byte} (h : i + s.length ≤ n)
    (hi : lo + count ≤ i) : memRead (memWrite L i s) lo count = memRead L lo count :=
  memRead_congr fun j _ hj => by rw [laneAt_memWrite L i s h, if_neg (by omega)]

/-- A write where the one before it ended: the lanes of both hold one list. -/
theorem memRead_memWrite_append {n : Nat} (L : Lanes n) {lo count i : Nat} (s : List Byte)
    (hlo : lo + count = i) (h : i + s.length ≤ n) :
    memRead (memWrite L i s) lo (count + s.length) = memRead L lo count ++ s := by
  subst hlo
  rw [← memRead_append, memRead_memWrite_of_le L h le_rfl, memRead_memWrite_self L s h]

/-- Frame bytes 1 to `FL - 1` are the address, the payload and the CRC field (R101 to R106). -/
theorem memRead_buildFrame (which : Config.Crc1Byte) {alen plen clen : Nat} {A P : List Byte}
    (ha : A.length = alen) (hp : P.length = plen) (hc : clen = 1 ∨ clen = 2)
    (hn : frameLength alen plen clen ≤ 67) :
    memRead (buildFrame which alen plen clen A P) 1 (alen + plen + clen) =
      A ++ P ++ crcField which clen (crc16 (A ++ P)) := by
  have hcrc := crcField_length which hc (crc16 (A ++ P))
  simp only [frameLength] at hn
  simp only [buildFrame, crcOffset]
  generalize crcField which clen (crc16 (A ++ P)) = field at hcrc ⊢
  subst ha hp hcrc
  rw [memRead_memWrite_append _ _ (by omega) (by omega), memRead_memWrite_append _ _ (by omega) (by omega),
    memRead_memWrite_self _ _ (by omega)]

/-- With admitted lengths ASSEMBLE completes with OK and the packet of its lanes. -/
theorem exec_assemble_of_admitted {alen plen clen align : Nat} (noack big : Bool) (seq : Byte) (s : State)
    (h : Instr.LengthsAdmitted alen plen clen align) :
    exec (.assemble alen plen clen align noack big seq) s =
      .next (s.finishOk (buildPacket Config.crc1Byte alen plen clen seq noack big
        (memRead s.req.aIn 0 alen) (memRead s.req.pIn 0 plen))) := by
  obtain ⟨st, hst, -⟩ | ⟨-, he⟩ := execAssemble_cases alen plen clen align noack big seq s
  · rw [lengthStatus_eq_none.mpr h] at hst
    cases hst
  · exact he

/-- Settles O15: the two bytes of the CRC cancel it one after the other, and an assembled frame ends with them. -/
theorem residueIsZero : Obligations.ResidueIsZero := by
  refine ⟨crc16_append_own_bytes, fun alen plen align noack big seq s t hadm h => ?_⟩
  obtain rfl := Host.Outcome.next.inj ((exec_assemble_of_admitted noack big seq s hadm).symm.trans h)
  obtain ⟨-, hplen, ⟨-, halen⟩, hclen⟩ := hadm
  have hframe := memRead_buildFrame Config.crc1Byte (memRead_length s.req.aIn 0 alen)
    (memRead_length s.req.pIn 0 plen) hclen (by simp only [frameLength]; omega)
  exact (congrArg crc16 hframe).trans (crc16_append_own_bytes _)

/-! ### CRCUPD (R83, R90) -/

/-- Settles O16: the check of the bit count decides between R83's two ends. -/
theorem crcupdResult : Obligations.CrcupdResult := by
  intro bits data crcin s
  obtain ⟨st, hst, he⟩ | ⟨hnone, he⟩ := execCrcupd_cases bits data crcin s
  · obtain rfl := bitcountStatus_eq_some hst
    refine ⟨fun hbits => ?_, fun _ => he⟩
    rw [bitcountStatus_eq_none.mpr hbits] at hst
    cases hst
  · have hbits := bitcountStatus_eq_none.mp hnone
    exact ⟨fun _ => he, fun hbad => by omega⟩

/-- CRCUPD's response is a function of its operands. -/
theorem exec_crcupd_endsWith (bits : Nat) (data : Byte) (crcin : Word16) :
    ∃ r, ∀ s, exec (.crcupd bits data crcin) s = .next (endsWith s r) := by
  by_cases hbits : 1 ≤ bits ∧ bits ≤ 8
  · exact ⟨_, fun s => (crcupdResult bits data crcin s).1 hbits⟩
  · exact ⟨_, fun s => (crcupdResult bits data crcin s).2 (by omega)⟩

/-- Settles O17: equal words decode to one CRCUPD, whose response its operands give. -/
theorem crcupdDependsOnItsWordOnly : Obligations.CrcupdDependsOnItsWordOnly := by
  intro s t hword hop
  obtain ⟨bits, data, crcin, hs⟩ := decode_crcupd_iff.mpr
    (rowCrcupd_fits_iff.mpr (by simpa [cmdField_eq_div_mod] using hop))
  have ht := hword ▸ hs
  obtain ⟨r, hr⟩ := exec_crcupd_endsWith bits data crcin
  exact ⟨r, (execStep_of_command hs).trans (hr s), (execStep_of_command ht).trans (hr t)⟩

end Sys2Proof.Proofs
end

section
/-! The lemmas of 41_frame_assembler.md's three statements: writes that adjoin are one write, so a frame is one byte
list written to zeroed lanes, and ASSEMBLE's two ends, one for each answer of its length check. -/

namespace Sys2Proof.Proofs

open Sys2Proof Sys2Proof.Machine Sys2Proof.Safety

/-! ### The frame lanes as one write -/

/-- Two adjoining writes are one write. -/
theorem memWrite_append {n : Nat} (L : Lanes n) (i : Nat) (s t : List Byte) :
    memWrite L i (s ++ t) = memWrite (memWrite L i s) (i + s.length) t := by
  induction s generalizing L i with
  | nil => rfl
  | cons b s ih => rw [List.cons_append, memWrite, memWrite, ih, List.length_cons, Nat.add_right_comm, Nat.add_assoc]

theorem holdsThenZero_memWrite_zeros {n : Nat} {s : List Byte} (h : s.length ≤ n) :
    holdsThenZero (memWrite (Vector.replicate n (0#8 : Byte)) 0 s) s := by
  intro i _
  rw [laneAt_memWrite _ _ _ (by omega)]
  split
  next => rfl
  next hi => rw [laneAt_replicate_zero, List.getElem?_eq_none (by omega), Option.getD_none]

/-- Each of the frame's four parts begins where the one before it ends (R101 to R106). -/
theorem buildFrame_eq_memWrite (which : Config.Crc1Byte) (clen : Nat) (A P : List Byte) :
    buildFrame which A.length P.length clen A P =
      memWrite (Vector.replicate 67 0#8) 0 ([preamble A] ++ A ++ P ++ crcField which clen (crc16 (A ++ P))) := by
  rw [memWrite_append, memWrite_append, memWrite_append]
  simp only [buildFrame, crcOffset, List.length_append, List.length_singleton, Nat.zero_add]

/-! ### The bytes of a packet, by arithmetic -/

/-- Bit 7 of a byte is set exactly from 128 up (R102). -/
theorem preamble_eq_preambleFor (A : List Byte) : preamble A = preambleFor A := by
  simp [preamble, preambleFor, BitVec.msb_eq_decide]

theorem hiByte_eq_div (c : Word16) : hiByte c = BitVec.ofNat 8 (c.toNat / 256) :=
  BitVec.eq_of_toNat_eq (by simp [hiByte, Nat.shiftRight_eq_div_pow])

theorem loByte_eq_mod (c : Word16) : loByte c = BitVec.ofNat 8 (c.toNat % 256) :=
  BitVec.eq_of_toNat_eq (by simp [loByte])

/-- The CRC field of the model's setting of CRC1_BYTE (R6, R106). -/
theorem crcField_eq_crcBytes (clen : Nat) (crc : Word16) : crcField Config.crc1Byte clen crc = crcBytes clen crc := by
  simp only [crcField, crcBytes, crcOneByte, Config.crc1Byte, hiByte_eq_div, loByte_eq_mod]

/-! ### The packet record -/

/-- `build_packet` with status OK is the packet record of its address and payload, for every admitted combination of
lengths (R111). -/
theorem packetRecord_buildPacket {clen align : Nat} (seq : Byte) (noack big : Bool) {A P : List Byte}
    (hadm : Instr.LengthsAdmitted A.length P.length clen align) :
    PacketRecord clen seq noack big A P
      ((buildPacket Config.crc1Byte A.length P.length clen seq noack big A P).withStatus .ok) := by
  obtain ⟨-, hplen, ⟨-, halen⟩, hclen⟩ := hadm
  have hcrc := crcField_length Config.crc1Byte hclen (crc16 (A ++ P))
  rw [crcField_eq_crcBytes] at hcrc
  constructor
  case statusIs | crcOutIs | seqIs | noackIs | bigIs => rfl
  case alenIs | plenIs | clenIs | flenBytesIs | flenBitsIs =>
    simp (disch := omega) only [Response.withStatus, buildPacket, frameLength, BitVec.toNat_ofNat, Nat.mod_eq_of_lt]
  case addressIs => exact holdsThenZero_memWrite_zeros halen
  case payloadIs => exact holdsThenZero_memWrite_zeros hplen
  case crcIs =>
    simp only [Response.withStatus, buildPacket, crcField_eq_crcBytes]
    exact holdsThenZero_memWrite_zeros (by omega)
  case frameIs =>
    simp only [Response.withStatus, buildPacket, buildFrame_eq_memWrite, crcField_eq_crcBytes, preamble_eq_preambleFor]
    exact holdsThenZero_memWrite_zeros (by simp only [List.length_append, List.length_singleton]; omega)

/-- Settles O19: the two reads have the lengths asked for, so `build_packet` gives their record. -/
theorem assembleBuildsThePacket : Obligations.AssembleBuildsThePacket := by
  intro alen plen clen align noack big seq s hadm
  refine ⟨_, exec_assemble_of_admitted noack big seq s hadm, ?_⟩
  have hrecord := packetRecord_buildPacket seq noack big (A := memRead s.req.aIn 0 alen)
    (P := memRead s.req.pIn 0 plen) (by rw [memRead_length, memRead_length]; exact hadm)
  rw [memRead_length, memRead_length] at hrecord
  exact hrecord

/-! ### What ASSEMBLE's response depends on (R107, R112) -/

/-- Where a length is not admitted, the lengths alone give the status, whatever the reserved fields and the state. -/
theorem exec_assemble_of_not_admitted {alen plen clen align : Nat}
    (h : ¬ Instr.LengthsAdmitted alen plen clen align) :
    ∃ st, st ≠ .ok ∧ ∀ (noack big : Bool) (seq : Byte) (s : State),
      exec (.assemble alen plen clen align noack big seq) s = .next (s.raise st) := by
  obtain ⟨st, hst⟩ := Option.ne_none_iff_exists'.mp (mt lengthStatus_eq_none.mp h)
  refine ⟨st, by obtain rfl | rfl | rfl := lengthStatus_eq_some hst <;> decide, fun noack big seq s => ?_⟩
  obtain ⟨st', hst', he⟩ | ⟨hnone, -⟩ := execAssemble_cases alen plen clen align noack big seq s
  · obtain rfl := Option.some.inj (hst'.symm.trans hst)
    exact he
  · exact absurd (lengthStatus_eq_none.mp hnone) h

/-- Settles O21: a rejection does not see the reserved fields, and `build_packet` only copies them. -/
theorem reservedFieldsOnlyEcho : Obligations.ReservedFieldsOnlyEcho := by
  intro alen plen clen align noack big noack' big' seq seq' s
  by_cases hadm : Instr.LengthsAdmitted alen plen clen align
  · exact ⟨_, _, exec_assemble_of_admitted noack big seq s hadm, exec_assemble_of_admitted noack' big' seq' s hadm,
      rfl, fun _ => ⟨rfl, rfl, rfl⟩⟩
  · obtain ⟨st, hst, he⟩ := exec_assemble_of_not_admitted hadm
    exact ⟨_, _, he noack big seq s, he noack' big' seq' s, rfl, fun hok => absurd hok (code_ne_zero hst)⟩

/-- Settles O22: a rejection reads no lane, and with admitted lengths the two reads are the same in both states. -/
theorem assembleReadsOnlyItsLanes : Obligations.AssembleReadsOnlyItsLanes := by
  intro alen plen clen align noack big seq s t hagree
  by_cases hadm : Instr.LengthsAdmitted alen plen clen align
  · obtain ⟨hA, hP⟩ := hagree hadm
    have hreadA : memRead s.req.aIn 0 alen = memRead t.req.aIn 0 alen :=
      memRead_congr fun j hlo hhi => hA j hlo (by omega)
    have hreadP : memRead s.req.pIn 0 plen = memRead t.req.pIn 0 plen :=
      memRead_congr fun j hlo hhi => hP j hlo (by omega)
    have hs := exec_assemble_of_admitted noack big seq s hadm
    rw [hreadA, hreadP] at hs
    exact ⟨_, hs, exec_assemble_of_admitted noack big seq t hadm⟩
  · obtain ⟨st, -, he⟩ := exec_assemble_of_not_admitted hadm
    exact ⟨_, he noack big seq s, he noack big seq t⟩

end Sys2Proof.Proofs
end

section
/-! The lemmas of 42_frame_parser.md's five statements: PARSE's test as an equality of byte lists (R120 to R123), its
ends, what a flipped bit does to the high byte of the CRC (R88), and the assembled frame as a raw buffer. -/

namespace Sys2Proof.Proofs

open Sys2Proof Sys2Proof.Machine Sys2Proof.Safety

/-! ### Reads as byte lists -/

/-- Two reads at one place, of arrays of any sizes, are equal exactly when each lane read is. -/
theorem memRead_eq_iff {n m : Nat} {L : Lanes n} {M : Lanes m} {i count : Nat} :
    memRead L i count = memRead M i count ↔ ∀ j, i ≤ j → j < i + count → laneAt L j = laneAt M j := by
  simp only [memRead, List.map_inj_left, List.mem_range]
  refine ⟨fun h j hlo hhi => ?_, fun h k hk => h _ (by omega) (by omega)⟩
  simpa only [Nat.add_sub_cancel' hlo] using h (j - i) (by omega)

theorem getD_memRead {n : Nat} (L : Lanes n) {i count j : Nat} (h : j < count) :
    ((memRead L i count)[j]?).getD 0#8 = laneAt L (i + j) := by
  rw [memRead_getElem?, if_pos h, Option.getD_some]

/-- A read cut where the first list ends. -/
theorem memRead_add_eq_append_iff {n : Nat} {L : Lanes n} {i a b : Nat} {s t : List Byte} (hs : s.length = a) :
    memRead L i (a + b) = s ++ t ↔ memRead L i a = s ∧ memRead L (i + a) b = t := by
  rw [← memRead_append]
  exact ⟨fun h => List.append_inj h ((memRead_length L i a).trans hs.symm), fun ⟨hl, hr⟩ => by rw [hl, hr]⟩

/-- A buffer that differs from another in one bit of one lane read gives the other's bytes with that bit flipped. -/
theorem memRead_eq_flipBit {n m : Nat} {L : Lanes n} {M : Lanes m} {i count p b : Nat} (hlo : i ≤ p)
    (hhi : p < i + count)
    (h : ∀ j, i ≤ j → j < i + count → laneAt L j = if j = p then laneAt M j ^^^ (1#8 <<< b) else laneAt M j) :
    memRead L i count = flipBit (memRead M i count) (p - i) b := by
  apply List.ext_getElem?
  intro j
  have hp : p - i < count := by omega
  simp only [flipBit, List.getElem?_set, memRead_length, memRead_getElem?, hp, if_true, Option.getD_some]
  by_cases hj : j < count
  · rw [if_pos hj, h (i + j) (by omega) (by omega)]
    by_cases hpj : p - i = j
    · have hplace : i + j = p := by omega
      simp [hpj, hplace]
    · have hplace : i + j ≠ p := by omega
      simp [hpj, hplace, hj]
  · have hpj : p - i ≠ j := by omega
    simp [hj, hpj]

/-! ### PARSE's test (R120 to R123) -/

theorem eq_bytePair_iff {c : Word16} {hi lo : Byte} : c = bytePair hi lo ↔ hi = hiByte c ∧ lo = loByte c := by
  have hpair : (bytePair hi lo).toNat = hi.toNat * 256 + lo.toNat := by
    rw [bytePair, BitVec.toNat_or, inHighByte_toNat, BitVec.toNat_setWidth_of_le (by decide), Nat.mul_comm]
    exact (Nat.two_pow_add_eq_or_of_lt lo.isLt hi.toNat).symm
  have hc := c.isLt
  have hlo := lo.isLt
  have hhi := hi.isLt
  rw [hiByte_eq_div, loByte_eq_mod, ← BitVec.toNat_inj, ← BitVec.toNat_inj, ← BitVec.toNat_inj, hpair,
    BitVec.toNat_ofNat, BitVec.toNat_ofNat]
  omega

theorem setWidth_sixteen_inj {a b : Byte} : a.setWidth 16 = b.setWidth 16 ↔ a = b := by
  rw [← BitVec.toNat_inj, BitVec.toNat_setWidth_of_le (by decide), BitVec.toNat_setWidth_of_le (by decide),
    BitVec.toNat_inj]

/-- The raw buffer holds, after `count` bytes from lane 1, the CRC field of these bytes. -/
def EndsWithItsCrc {n : Nat} (which : Config.Crc1Byte) (F : Lanes n) (count clen : Nat) : Prop :=
  memRead F (1 + count) clen = crcField which clen (crc16 (memRead F 1 count))

theorem endsWithItsCrc_congr {n m : Nat} {which : Config.Crc1Byte} {F : Lanes n} {G : Lanes m} {count clen : Nat}
    (h : ∀ j, 1 ≤ j → j < 1 + count + clen → laneAt F j = laneAt G j) :
    EndsWithItsCrc which F count clen ↔ EndsWithItsCrc which G count clen := by
  have hbytes : memRead F 1 count = memRead G 1 count := memRead_eq_iff.mpr fun j hlo hhi => h j hlo (by omega)
  have hfield : memRead F (1 + count) clen = memRead G (1 + count) clen :=
    memRead_eq_iff.mpr fun j hlo hhi => h j (by omega) hhi
  rw [EndsWithItsCrc, EndsWithItsCrc, hbytes, hfield]

/-- The parser's comparison of 16-bit values is one of the bytes: of the two lengths it sees the sum only. -/
theorem frameAccepted_iff {which : Config.Crc1Byte} {F : Lanes 127} {alen plen clen align : Nat}
    (hadm : Instr.LengthsAdmitted alen plen clen align) :
    frameAccepted which F alen plen clen = true ↔ EndsWithItsCrc which F (alen + plen) clen := by
  rw [frameAccepted, beq_iff_eq, EndsWithItsCrc, candidateAddress, candidatePayload, memRead_append, crcOffset,
    Nat.add_assoc]
  generalize crc16 (memRead F 1 (alen + plen)) = crc
  obtain ⟨-, -, -, rfl | rfl⟩ := hadm
  · simp [expectedCrc, embeddedCrc, crcField, memRead, setWidth_sixteen_inj, eq_comm]
  · simp [expectedCrc, embeddedCrc, crcField, memRead, List.range_succ, eq_bytePair_iff]

/-! ### PARSE's ends -/

/-- Where PARSE's checks pass and the embedded CRC is the recomputed one, it completes with the packet of its lanes. -/
theorem exec_parse_of_endsWithItsCrc {alen plen clen align rawlen : Nat} {s : State}
    (hadm : Instr.LengthsAdmitted alen plen clen align) (hraw : 1 + alen + plen + clen ≤ rawlen)
    (hcrc : EndsWithItsCrc Config.crc1Byte s.req.fIn (alen + plen) clen) :
    exec (.parse alen plen clen align rawlen) s =
      .next (s.finishOk (buildPacket Config.crc1Byte alen plen clen 0#8 false false
        (candidateAddress s.req.fIn alen) (candidatePayload s.req.fIn alen plen))) := by
  obtain ⟨st, hst, -⟩ | ⟨-, -, he⟩ | ⟨-, hf, -⟩ := execParse_cases alen plen clen align rawlen s
  · rw [parseStatus_eq_none.mpr ⟨hadm, hraw⟩] at hst
    cases hst
  · exact he
  · rw [(frameAccepted_iff hadm).mpr hcrc] at hf
    cases hf

/-- Where PARSE's checks pass and the embedded CRC is another, it ends with `CRC_MISMATCH` (R125). -/
theorem exec_parse_of_not_endsWithItsCrc {alen plen clen align rawlen : Nat} {s : State}
    (hadm : Instr.LengthsAdmitted alen plen clen align) (hraw : 1 + alen + plen + clen ≤ rawlen)
    (hcrc : ¬ EndsWithItsCrc Config.crc1Byte s.req.fIn (alen + plen) clen) :
    exec (.parse alen plen clen align rawlen) s = .next (endsWith s (failure 1#4)) := by
  obtain ⟨st, hst, -⟩ | ⟨-, hf, -⟩ | ⟨-, -, he⟩ := execParse_cases alen plen clen align rawlen s
  · rw [parseStatus_eq_none.mpr ⟨hadm, hraw⟩] at hst
    cases hst
  · exact absurd ((frameAccepted_iff hadm).mp hf) hcrc
  · exact he

theorem parseStatus_ne_ok {alen plen clen align rawlen : Nat} {st : Status}
    (h : parseStatus alen plen clen align rawlen = some st) : st ≠ .ok := by
  obtain rfl | rfl | rfl | rfl := parseStatus_eq_some h <;> decide

/-- Where a check fails, the lengths alone give the status, whatever the state. -/
theorem exec_parse_of_check_fails {alen plen clen align rawlen : Nat}
    (h : ¬ (Instr.LengthsAdmitted alen plen clen align ∧ 1 + alen + plen + clen ≤ rawlen)) :
    ∃ st, st ≠ .ok ∧ ∀ s : State, exec (.parse alen plen clen align rawlen) s = .next (s.raise st) := by
  obtain ⟨st, hst⟩ := Option.ne_none_iff_exists'.mp (mt parseStatus_eq_none.mp h)
  refine ⟨st, parseStatus_ne_ok hst, fun s => ?_⟩
  obtain ⟨st', hst', he⟩ | ⟨hnone, -⟩ | ⟨hnone, -⟩ := execParse_cases alen plen clen align rawlen s
  · obtain rfl := Option.some.inj (hst'.symm.trans hst)
    exact he
  · exact absurd (parseStatus_eq_none.mp hnone) h
  · exact absurd (parseStatus_eq_none.mp hnone) h

/-- A PARSE that ends with OK passed its checks and its CRC test. -/
theorem endsWithItsCrc_of_parse_ok {alen plen clen align rawlen : Nat} {s t : State}
    (h : exec (.parse alen plen clen align rawlen) s = .next t) (hok : t.rsp.status = 0#4) :
    Instr.LengthsAdmitted alen plen clen align ∧ 1 + alen + plen + clen ≤ rawlen ∧
      EndsWithItsCrc Config.crc1Byte s.req.fIn (alen + plen) clen := by
  obtain ⟨st, hst, he⟩ | ⟨hnone, hf, -⟩ | ⟨-, -, he⟩ := execParse_cases alen plen clen align rawlen s
  · obtain rfl := Host.Outcome.next.inj (he.symm.trans h)
    exact absurd hok (code_ne_zero (parseStatus_ne_ok hst))
  · obtain ⟨hadm, hraw⟩ := parseStatus_eq_none.mp hnone
    exact ⟨hadm, hraw, (frameAccepted_iff hadm).mp hf⟩
  · obtain rfl := Host.Outcome.next.inj (he.symm.trans h)
    exact absurd hok (code_ne_zero (st := .crcMismatch) (by decide))

/-- The packet record of an accepted frame. -/
theorem packetRecord_candidates (F : Lanes 127) {alen plen clen align : Nat}
    (hadm : Instr.LengthsAdmitted alen plen clen align) :
    PacketRecord clen 0#8 false false (candidateAddress F alen) (candidatePayload F alen plen)
      ((buildPacket Config.crc1Byte alen plen clen 0#8 false false (candidateAddress F alen)
        (candidatePayload F alen plen)).withStatus .ok) := by
  have hA : (candidateAddress F alen).length = alen := memRead_length _ _ _
  have hP : (candidatePayload F alen plen).length = plen := memRead_length _ _ _
  have hrecord := packetRecord_buildPacket 0#8 false false (A := candidateAddress F alen)
    (P := candidatePayload F alen plen) (by rw [hA, hP]; exact hadm)
  rw [hA, hP] at hrecord
  exact hrecord

/-- The test of the list of CRC bytes, byte by byte, high byte first. -/
theorem endsWithItsCrc_iff_bytes {F : Lanes 127} {alen plen clen align : Nat}
    (hadm : Instr.LengthsAdmitted alen plen clen align) :
    EndsWithItsCrc Config.crc1Byte F (alen + plen) clen ↔
      laneAt F (1 + alen + plen) = hiByte (crc16 (memRead F 1 alen ++ memRead F (1 + alen) plen)) ∧
      (clen = 2 →
        laneAt F (2 + alen + plen) = loByte (crc16 (memRead F 1 alen ++ memRead F (1 + alen) plen))) := by
  have hnext : 2 + alen + plen = 1 + alen + plen + 1 := by omega
  rw [EndsWithItsCrc, memRead_append, ← Nat.add_assoc, hnext]
  obtain ⟨-, -, -, rfl | rfl⟩ := hadm
  · simp [crcField, crcOneByte, Config.crc1Byte, memRead]
  · simp [crcField, memRead, List.range_succ]

/-- Settles O24: the embedded bytes are the right ones exactly where the test passes, and the test decides between
PARSE's two ends. -/
theorem parseAcceptsExactlyTheRightCrc : Obligations.ParseAcceptsExactlyTheRightCrc := by
  intro alen plen clen align rawlen s hadm hraw F A P crc right
  have hright : EndsWithItsCrc Config.crc1Byte F (alen + plen) clen ↔ right :=
    endsWithItsCrc_iff_bytes hadm
  rw [← hright]
  exact ⟨fun hcrc => ⟨_, exec_parse_of_endsWithItsCrc hadm hraw hcrc, packetRecord_candidates F hadm⟩,
    exec_parse_of_not_endsWithItsCrc hadm hraw⟩

/-- Settles O26: a rejection reads no lane, and with agreeing lanes the test has the same answer in both states and
the candidates are the same. -/
theorem parseReadsOnlyItsLanes : Obligations.ParseReadsOnlyItsLanes := by
  intro alen plen clen align rawlen s t hagree
  by_cases hpass : Instr.LengthsAdmitted alen plen clen align ∧ 1 + alen + plen + clen ≤ rawlen
  · obtain ⟨hadm, hraw⟩ := hpass
    have hlanes := hagree hadm hraw
    have htest : EndsWithItsCrc Config.crc1Byte s.req.fIn (alen + plen) clen ↔
        EndsWithItsCrc Config.crc1Byte t.req.fIn (alen + plen) clen :=
      endsWithItsCrc_congr fun j hlo hhi => hlanes j hlo (by omega)
    have hA : candidateAddress s.req.fIn alen = candidateAddress t.req.fIn alen :=
      memRead_congr fun j hlo hhi => hlanes j hlo (by omega)
    have hP : candidatePayload s.req.fIn alen plen = candidatePayload t.req.fIn alen plen :=
      memRead_congr fun j hlo hhi => hlanes j (by omega) (by omega)
    by_cases hcrc : EndsWithItsCrc Config.crc1Byte t.req.fIn (alen + plen) clen
    · have hs := exec_parse_of_endsWithItsCrc hadm hraw (htest.mpr hcrc)
      rw [hA, hP] at hs
      exact ⟨_, hs, exec_parse_of_endsWithItsCrc hadm hraw hcrc⟩
    · exact ⟨_, exec_parse_of_not_endsWithItsCrc hadm hraw (mt htest.mp hcrc),
        exec_parse_of_not_endsWithItsCrc hadm hraw hcrc⟩
  · obtain ⟨st, -, he⟩ := exec_parse_of_check_fails hpass
    exact ⟨_, he s, he t⟩

/-! ### The assembled frame as a raw buffer (R130, R133) -/

/-- The frame `build_packet` makes holds address and payload and passes the test, for either value of CRC1_BYTE. -/
theorem buildFrame_endsWithItsCrc (which : Config.Crc1Byte) {alen plen clen align : Nat} {A P : List Byte}
    (hadm : Instr.LengthsAdmitted alen plen clen align) (ha : A.length = alen) (hp : P.length = plen) :
    memRead (buildFrame which alen plen clen A P) 1 (alen + plen) = A ++ P ∧
      EndsWithItsCrc which (buildFrame which alen plen clen A P) (alen + plen) clen := by
  obtain ⟨-, hplen, ⟨-, halen⟩, hclen⟩ := hadm
  have hframe := memRead_buildFrame which ha hp hclen (by simp only [frameLength]; omega)
  obtain ⟨hbytes, hfield⟩ := (memRead_add_eq_append_iff (by simp [ha, hp])).mp hframe
  exact ⟨hbytes, by rw [EndsWithItsCrc, hfield, hbytes]⟩

/-- ASSEMBLE's frame holds the bytes of its lanes and passes PARSE's test; its length is the record's. -/
theorem frame_of_exec_assemble {alen plen clen align : Nat} {noack big : Bool} {seq : Byte} {s t : State}
    (hadm : Instr.LengthsAdmitted alen plen clen align)
    (h : exec (.assemble alen plen clen align noack big seq) s = .next t) :
    t.rsp.pktFlenBytes.toNat = 1 + alen + plen + clen ∧
      memRead t.rsp.pktF 1 (alen + plen) = memRead s.req.aIn 0 alen ++ memRead s.req.pIn 0 plen ∧
      EndsWithItsCrc Config.crc1Byte t.rsp.pktF (alen + plen) clen := by
  obtain rfl := Host.Outcome.next.inj ((exec_assemble_of_admitted noack big seq s hadm).symm.trans h)
  refine ⟨?_, buildFrame_endsWithItsCrc Config.crc1Byte hadm (memRead_length _ _ _) (memRead_length _ _ _)⟩
  obtain ⟨-, hplen, ⟨-, halen⟩, hclen⟩ := hadm
  exact Nat.mod_eq_of_lt (by simp only [frameLength]; omega)

/-- Settles O27: the buffer passes the test as the frame does, and its candidates are the frame's two parts. -/
theorem assembleThenParseRoundTrip : Obligations.AssembleThenParseRoundTrip := by
  intro alen plen clen align rawlen noack big seq s t u hadm h hframe hraw
  obtain ⟨hlen, hbytes, hcrc⟩ := frame_of_exec_assemble hadm h
  have hlanes : ∀ j, j < 1 + alen + plen + clen → laneAt u.req.fIn j = laneAt t.rsp.pktF j :=
    fun j hj => hframe j (hlen ▸ hj)
  have htest : EndsWithItsCrc Config.crc1Byte u.req.fIn (alen + plen) clen :=
    (endsWithItsCrc_congr fun j _ hj => hlanes j (by omega)).mpr hcrc
  have hparts : memRead u.req.fIn 1 (alen + plen) = memRead s.req.aIn 0 alen ++ memRead s.req.pIn 0 plen :=
    (memRead_eq_iff.mpr fun j _ hj => hlanes j (by omega)).trans hbytes
  obtain ⟨hA, hP⟩ := (memRead_add_eq_append_iff (memRead_length _ _ _)).mp hparts
  have hrecord := packetRecord_candidates u.req.fIn hadm
  have ⟨_, hplen, ⟨_, halen⟩, _⟩ := hadm
  refine ⟨_, exec_parse_of_endsWithItsCrc hadm hraw htest, rfl, fun i hi => ?_, fun j hj => ?_⟩
  · rw [← Nat.zero_add i, ← getD_memRead s.req.aIn hi, ← hA, Nat.zero_add]
    exact hrecord.addressIs i (by omega)
  · rw [← Nat.zero_add j, ← getD_memRead s.req.pIn hj, ← hP, Nat.zero_add]
    exact hrecord.payloadIs j (by omega)

/-- Settles O31: both the packet's frame and the raw buffer hold the candidates and, after them, their CRC field. -/
theorem parsedFrameIsTheBuffer : Obligations.ParsedFrameIsTheBuffer := by
  intro alen plen clen align rawlen s t h hok
  obtain ⟨hadm, hraw, hcrc⟩ := endsWithItsCrc_of_parse_ok h hok
  obtain rfl := Host.Outcome.next.inj ((exec_parse_of_endsWithItsCrc hadm hraw hcrc).symm.trans h)
  have ⟨_, hplen, ⟨hpos, halen⟩, hclen⟩ := hadm
  constructor
  · have hframe := memRead_buildFrame Config.crc1Byte (memRead_length s.req.fIn 1 alen)
      (memRead_length s.req.fIn (1 + alen) plen) hclen (by simp only [frameLength]; omega)
    rw [EndsWithItsCrc] at hcrc
    rw [memRead_append, ← hcrc, memRead_append] at hframe
    exact fun i hlo hhi => memRead_eq_iff.mp hframe i hlo (by omega)
  · have hfirst : (candidateAddress s.req.fIn alen).headD 0#8 = laneAt s.req.fIn 1 := by
      rw [List.headD_eq_head?_getD, List.head?_eq_getElem?]
      exact getD_memRead s.req.fIn hpos
    rw [← hfirst]
    refine ((packetRecord_candidates s.req.fIn hadm).frameIs 0 (by decide)).trans ?_
    exact (preamble_eq_preambleFor _).symm

/-! ### One flipped bit (R88, R132) -/

theorem hiByte_xor (a b : Word16) : hiByte (a ^^^ b) = hiByte a ^^^ hiByte b := BitVec.extractLsb'_xor

theorem crcUpdate_xor_byte (c : Word16) (d e : Byte) (k : Nat) :
    crcUpdate c (d ^^^ e) k = crcUpdate c d k ^^^ crcShifts k (inHighByte e) := by
  rw [crcUpdate, inHighByte_xor, ← BitVec.xor_assoc, crcShifts_xor, crcUpdate]

/-- A difference in the register rides through every further byte as if these were zero (R88). -/
theorem crcFrom_xor_seed (r e : Word16) (s : List Byte) :
    crcFrom (r ^^^ e) s = crcFrom r s ^^^ crcShifts (8 * s.length) e := by
  induction s generalizing r e with
  | nil => rfl
  | cons b s ih =>
    have hstep : crcUpdate (r ^^^ e) b 8 = crcUpdate r b 8 ^^^ crcShifts 8 e := by
      rw [crcUpdate, crcUpdate, BitVec.xor_assoc, BitVec.xor_comm e, ← BitVec.xor_assoc, crcShifts_xor]
    rw [crcFrom_cons, hstep, ih, crcFrom_cons, List.length_cons, Nat.mul_succ, Nat.add_comm, crcShifts_add]

theorem inHighByte_bit {b : Nat} (hb : b < 8) : inHighByte (1#8 <<< b) = xPow (b + 8) := by
  interval_cases b <;> decide

/-- R88's error law: a flipped bit `d` places before the end leaves `x^(d + 16)` in the CRC. -/
theorem crcFrom_flipBit (seed : Word16) {s : List Byte} {i b : Nat} (hi : i < s.length) (hb : b < 8) :
    crcFrom seed (flipBit s i b) = crcFrom seed s ^^^ xPow (8 * (s.length - 1 - i) + b + 16) := by
  induction s generalizing seed i with
  | nil => cases hi
  | cons d s ih =>
    cases i with
    | zero =>
      have hflip : flipBit (d :: s) 0 b = (d ^^^ (1#8 <<< b)) :: s := rfl
      have hpow : 8 * ((d :: s).length - 1 - 0) + b + 16 = b + 8 + 8 + 8 * s.length := by
        simp only [List.length_cons]; omega
      rw [hflip, crcFrom_cons, crcUpdate_xor_byte, crcFrom_xor_seed, inHighByte_bit hb, crcFrom_cons, hpow]
      simp only [xPow, crcShifts_add]
    | succ i =>
      have hflip : flipBit (d :: s) (i + 1) b = d :: flipBit s i b := rfl
      have hplace : (d :: s).length - 1 - (i + 1) = s.length - 1 - i := by
        simp only [List.length_cons]; omega
      rw [hflip, crcFrom_cons, ih _ (by simpa using hi), crcFrom_cons, hplace]

theorem engineLoop_eq_iterate (k r : Nat) : engineLoop k r = (engineLoop 1)^[k] r := by
  induction k generalizing r with
  | zero => rfl
  | succ k ih => exact ih _

/-- The powers of x from `x^16` to `x^576`, each computed from the one before it, are no one-byte values. -/
theorem le_of_mem_iterate_engineLoop : ∀ n ∈ List.iterate (engineLoop 1) 0x1021 561, 256 ≤ n := by
  decide +kernel

theorem xPow_add_sixteen_toNat (d : Nat) : (xPow (d + 16)).toNat = engineLoop d 0x1021 := by
  have hpoly : crcShifts 16 1#16 = Config.crcPoly := by decide +kernel
  rw [xPow, Nat.add_comm, crcShifts_add, hpoly, crcShifts_toNat]
  rfl

theorem hiByte_ne_zero_of_le {c : Word16} (h : 256 ≤ c.toNat) : hiByte c ≠ 0#8 := by
  intro hzero
  have hlt := c.isLt
  have hnat := congrArg BitVec.toNat hzero
  rw [hiByte_eq_div, BitVec.toNat_ofNat, BitVec.toNat_ofNat] at hnat
  omega

/-- R88's bound for the high byte. -/
theorem hiByte_xPow_ne_zero {d : Nat} (hd : d ≤ 560) : hiByte (xPow (d + 16)) ≠ 0#8 := by
  refine hiByte_ne_zero_of_le (le_of_mem_iterate_engineLoop _ ?_)
  rw [xPow_add_sixteen_toNat, engineLoop_eq_iterate]
  exact List.mem_iterate.mpr ⟨d, by omega, rfl⟩

theorem hiByte_crc16_flipBit_ne {s : List Byte} {i b : Nat} (hs : s.length ≤ 64) (hi : i < s.length) (hb : b < 8) :
    hiByte (crc16 (flipBit s i b)) ≠ hiByte (crc16 s) := by
  rw [crc16, crcFrom_flipBit _ hi hb, hiByte_xor, ← crc16]
  have hpow := hiByte_xPow_ne_zero (d := 8 * (s.length - 1 - i) + b) (by omega)
  exact fun h => hpow (by simpa using h)

theorem head?_crcField (clen : Nat) (crc : Word16) :
    (crcField Config.crc1Byte clen crc).head? = some (hiByte crc) := by
  unfold crcField
  split <;> rfl

/-- Settles O30: the CRC field is the frame's, the bytes before it are the frame's with one bit flipped, and either
CRC field starts with the high byte, which the flip changes. -/
theorem tamperedFrameIsRejected : Obligations.TamperedFrameIsRejected := by
  intro alen plen clen align rawlen noack big seq s t u p b hadm h hlo hhi hb hlanes hraw
  obtain ⟨-, -, hcrc⟩ := frame_of_exec_assemble hadm h
  refine exec_parse_of_not_endsWithItsCrc hadm hraw fun htampered => ?_
  obtain ⟨-, hplen, ⟨-, halen⟩, -⟩ := hadm
  have hbytes : memRead u.req.fIn 1 (alen + plen) = flipBit (memRead t.rsp.pktF 1 (alen + plen)) (p - 1) b :=
    memRead_eq_flipBit hlo (by omega) fun j _ hj => hlanes j (by omega)
  have hfield : memRead u.req.fIn (1 + (alen + plen)) clen = memRead t.rsp.pktF (1 + (alen + plen)) clen :=
    memRead_eq_iff.mpr fun j hj hj' => by rw [hlanes j (by omega), if_neg (by omega)]
  rw [EndsWithItsCrc, hfield, hbytes, hcrc] at htampered
  have hhead := congrArg List.head? htampered
  rw [head?_crcField, head?_crcField] at hhead
  have hlen := memRead_length t.rsp.pktF 1 (alen + plen)
  exact hiByte_crc16_flipBit_ne (by omega) (by omega) hb (Option.some.inj hhead).symm

end Sys2Proof.Proofs
end

section
/-! The lemmas of 60_exceptions.md's two statements: R142's check over the raw word is the decoder's rejection and,
for a word it accepts, the check of the command; and that check decides how EXEC ends. -/

namespace Sys2Proof.Proofs

open Sys2Proof Sys2Proof.Machine Sys2Proof.Safety

/-! ### The check of a decoded command -/

/-- The check with which each command's meaning begins (R83, R100, R126). -/
def commandStatus : Instr → Option Status
  | .crcupd bits _ _ => bitcountStatus bits
  | .assemble alen plen clen align _ _ _ => lengthStatus alen plen clen align
  | .parse alen plen clen align rawlen => parseStatus alen plen clen align rawlen

/-- Every command ends as its check says: with the check's status, or with OK; PARSE alone, its check passed, may
end with `CRC_MISMATCH` (R125). -/
theorem exec_cases (i : Instr) (s : State) :
    (∃ st, commandStatus i = some st ∧ exec i s = .next (s.raise st)) ∨
    (commandStatus i = none ∧ ∃ r, exec i s = .next (s.finishOk r)) ∨
    (commandStatus i = none ∧ i.row = rowParse ∧ exec i s = .next (s.raise .crcMismatch)) := by
  cases i with
  | crcupd bits data crcin =>
    obtain hfails | ⟨hnone, he⟩ := execCrcupd_cases bits data crcin s
    · exact .inl hfails
    · exact .inr (.inl ⟨hnone, _, he⟩)
  | assemble alen plen clen align noack big seq =>
    obtain hfails | ⟨hnone, he⟩ := execAssemble_cases alen plen clen align noack big seq s
    · exact .inl hfails
    · exact .inr (.inl ⟨hnone, _, he⟩)
  | parse alen plen clen align rawlen =>
    obtain hfails | ⟨hnone, -, he⟩ | ⟨hnone, -, he⟩ := execParse_cases alen plen clen align rawlen s
    · exact .inl hfails
    · exact .inr (.inl ⟨hnone, _, he⟩)
    · exact .inr (.inr ⟨hnone, rfl, he⟩)

/-! ### R142's check over the raw word -/

/-- A reserved word fails one of R142's first three checks: its opcode is no row's, or its row's reserved bits are
set. -/
theorem check_of_rejected {w : CmdWord} {why : DecodeReject} (h : decode w = .rejected why) :
    check w = some .illegalCommand := by
  obtain ⟨hop1, hassemble, hparse⟩ := decode_rejected_iff.mp ⟨why, h⟩
  rw [rowCrcupd_fits_iff] at hop1
  rw [rowAssemble_fits_iff] at hassemble
  rw [rowParse_fits_iff] at hparse
  by_cases hop2 : cmdField w 0 4 = 2
  · have hbit : cmdField w 23 1 ≠ 0 := fun hzero => hassemble ⟨hop2, hzero⟩
    simp [check, hop2, hbit]
  · by_cases hop3 : cmdField w 0 4 = 3
    · have hbits : cmdField w 28 4 ≠ 0 := fun hzero => hparse ⟨hop3, hzero⟩
      simp [check, hop3, hbits]
    · simp [check, hop1, hop2, hop3]

/-- For a word the decoder accepts, R142's checks over the word are those of its command. -/
theorem check_of_command {w : CmdWord} {i : Instr} (h : decode w = .command i) :
    check w = commandStatus i := by
  have hfits := row_fits_of_decode h
  cases i with
  | crcupd bits data crcin =>
    have hop := rowCrcupd_fits_iff.mp hfits
    simp only [decode, hop, decodeCrcupd, Decoded.command.injEq, Instr.crcupd.injEq] at h
    obtain ⟨rfl, -, -⟩ := h
    simp [check, hop, commandStatus, bitcountStatus]
  | assemble alen plen clen align noack big seq =>
    obtain ⟨hop, hbit⟩ := rowAssemble_fits_iff.mp hfits
    have hclear : w.getLsbD 23 = false := by rwa [cmdField_one_eq_toNat, Bool.toNat_eq_zero] at hbit
    simp only [decode, hop, decodeAssemble, hclear, Bool.false_eq_true, if_false, Decoded.command.injEq,
      Instr.assemble.injEq] at h
    obtain ⟨rfl, rfl, rfl, rfl, -, -, -⟩ := h
    simp [check, hop, hbit, commandStatus, lengthStatus]
  | parse alen plen clen align rawlen =>
    obtain ⟨hop, hbits⟩ := rowParse_fits_iff.mp hfits
    simp only [decode, hop, decodeParse, hbits, ne_eq, not_true_eq_false, if_false, Decoded.command.injEq,
      Instr.parse.injEq] at h
    obtain ⟨rfl, rfl, rfl, rfl, rfl⟩ := h
    simp only [check, hop, hbits, commandStatus, parseStatus, lengthStatus, Nat.reduceEqDiff, ne_eq,
      not_true_eq_false, not_false_eq_true, and_false, false_and, true_and, if_false]
    split_ifs <;> rfl

/-! ### How EXEC ends -/

/-- Settles O36: a reserved word fails R142's check with `ILLEGAL_COMMAND`, and the check of any other word is its
command's. -/
theorem firstFailingCheckGivesTheStatus : Obligations.FirstFailingCheckGivesTheStatus := by
  intro s
  cases hdec : decode s.req.cmd with
  | rejected why =>
    rw [check_of_rejected hdec]
    exact ⟨_, execStep_endsWith_of_rejected hdec, rfl⟩
  | command i =>
    rw [execStep_of_command hdec, check_of_command hdec]
    obtain ⟨st, hst, he⟩ | ⟨hnone, r, he⟩ | ⟨hnone, hrow, he⟩ := exec_cases i s
    · rw [hst]
      exact ⟨_, he, rfl⟩
    · rw [hnone]
      exact ⟨_, he, .inl rfl⟩
    · rw [hnone]
      have hfits := row_fits_of_decode hdec
      obtain ⟨hop, -⟩ := rowParse_fits_iff.mp (hrow ▸ hfits)
      exact ⟨_, he, .inr ⟨by simpa [cmdField_eq_div_mod] using hop, rfl⟩⟩

/-- Settles O37: a failing end is a raise, of a reserved word or of the command itself, and a raise writes its
status and nothing else. -/
theorem failingCommandWritesOnlyItsStatus : Obligations.FailingCommandWritesOnlyItsStatus := by
  intro s t h hne
  cases hdec : decode s.req.cmd with
  | rejected why =>
    obtain rfl := Host.Outcome.next.inj ((execStep_of_rejected hdec).symm.trans h)
    rfl
  | command i =>
    rw [execStep_of_command hdec] at h
    obtain ⟨st, -, he⟩ | ⟨r, -, he⟩ := exec_raises_or_endsOk i s
    · obtain rfl := Host.Outcome.next.inj (he.symm.trans h)
      rfl
    · obtain rfl := Host.Outcome.next.inj (he.symm.trans h)
      exact absurd rfl hne

end Sys2Proof.Proofs
end

section
/-! The statement of 70_reset_and_hazards.md: a READ with no response to return (R164). -/

namespace Sys2Proof.Proofs

open Sys2Proof Sys2Proof.Machine

/-- The turn of a scheduled READ is decided by `RSP_VALID` alone (R162, R164). -/
theorem nextMove_of_read {s : State} {rest : List Turn} (hs : s.schedule = .read :: rest) :
    nextMove s = if s.rspValid then .host s.nextTurn.readOut else .badRead := by
  simp only [nextMove, hs]

/-- Settles O43: with `RSP_VALID` 0 the turn of a READ is the bad read, and `step` answers that with the fault. -/
theorem readWithoutResponseFaults : Obligations.ReadWithoutResponseFaults := by
  intro s rest hv hs
  have hbad : nextMove s = .badRead := by simp [nextMove_of_read hs, hv]
  exact step_of_badRead hbad

end Sys2Proof.Proofs
end

section
/-! The lemmas of 30_encoding.md's statements of the encoder: what the decoder reads from a word that fits a row, what
a field of an encoded word reads back (R61 to R63), and a word put together again from its fields. -/

namespace Sys2Proof.Proofs

open Sys2Proof Sys2Proof.Machine Sys2Proof.Safety

/-! ### The command of a word that fits a row -/

theorem decode_of_rowCrcupd_fits {w : CmdWord} (h : rowCrcupd.fits w) :
    decode w = .command (.crcupd (cmdField w 4 4) (w.extractLsb' 8 8) (w.extractLsb' 16 16)) := by
  simp [decode, rowCrcupd_fits_iff.mp h, decodeCrcupd]

theorem decode_of_rowAssemble_fits {w : CmdWord} (h : rowAssemble.fits w) :
    decode w = .command (.assemble (cmdField w 4 6) (cmdField w 10 6) (cmdField w 16 2) (cmdField w 18 3)
      (w.getLsbD 21) (w.getLsbD 22) (w.extractLsb' 24 8)) := by
  obtain ⟨hop, hbit⟩ := rowAssemble_fits_iff.mp h
  rw [cmdField_one_eq_toNat, Bool.toNat_eq_zero] at hbit
  simp [decode, hop, decodeAssemble, hbit, -BitVec.getLsbD_eq_getElem]

theorem decode_of_rowParse_fits {w : CmdWord} (h : rowParse.fits w) :
    decode w = .command (.parse (cmdField w 4 6) (cmdField w 10 6) (cmdField w 16 2) (cmdField w 18 3)
      (cmdField w 21 7)) := by
  obtain ⟨hop, hbits⟩ := rowParse_fits_iff.mp h
  simp [decode, hop, decodeParse, hbits]

/-- Settles O2: the fields are the slices of the word that its row's decoding names. -/
theorem decodeReadsEveryFieldUnsigned : Obligations.DecodeReadsEveryFieldUnsigned := by
  intro w
  have hslice (lo n : Nat) : (w.extractLsb' lo n).toNat = w.toNat / 2 ^ lo % 2 ^ n := cmdField_eq_div_mod w lo n
  have hflag (lo : Nat) : (w.getLsbD lo).toNat = w.toNat / 2 ^ lo % 2 := by
    rw [← cmdField_one_eq_toNat, cmdField_eq_div_mod, pow_one]
  refine ⟨fun bits data crcin h => ?_, fun alen plen clen align noack big seq h => ?_,
    fun alen plen clen align rawlen h => ?_⟩
  · cases (decode_of_rowCrcupd_fits (row_fits_of_decode h)).symm.trans h
    exact ⟨hslice 4 4, hslice 8 8, hslice 16 16⟩
  · cases (decode_of_rowAssemble_fits (row_fits_of_decode h)).symm.trans h
    exact ⟨hslice 4 6, hslice 10 6, hslice 16 2, hslice 18 3, hflag 21, hflag 22, hslice 24 8⟩
  · cases (decode_of_rowParse_fits (row_fits_of_decode h)).symm.trans h
    exact ⟨hslice 4 6, hslice 10 6, hslice 16 2, hslice 18 3, hslice 21 7⟩

/-! ### A field of an encoded word -/

@[simp] theorem fieldAt_getElem {n : Nat} (v : BitVec n) (lo i : Nat) (h : i < 32) :
    (fieldAt v lo)[i] = (decide (lo ≤ i) && v.getLsbD (i - lo)) := by
  simp [fieldAt, ← decide_not]

@[simp] theorem extractLsb'_fieldAt_same {n lo : Nat} (h : lo + n ≤ 32) (v : BitVec n) :
    (fieldAt v lo).extractLsb' lo n = v := by
  apply BitVec.eq_of_getLsbD_eq
  intro i hi
  have hplace : lo + i < 32 := by omega
  simp [hi, hplace]

@[simp] theorem extractLsb'_fieldAt_of_disjoint {m n lo lo' : Nat} (h : lo' + m ≤ lo ∨ lo + n ≤ lo') (v : BitVec m) :
    (fieldAt v lo').extractLsb' lo n = 0#n := by
  apply BitVec.eq_of_getLsbD_eq
  intro i hi
  simp only [fieldAt, BitVec.getLsbD_extractLsb', BitVec.getLsbD_shiftLeft, BitVec.getLsbD_setWidth]
  obtain habove | hbelow := h
  · rw [BitVec.getLsbD_of_ge v _ (by omega)]
    simp
  · have hlow : lo + i < lo' := by omega
    simp [hlow]

/-- Settles O4: an encoding fits its command's row, and each field of it reads back the operand put there. -/
theorem decodeOfEncodeIsTheCommand : Obligations.DecodeOfEncodeIsTheCommand := by
  intro i hwf
  cases i with
  | crcupd bits data crcin =>
    rw [decode_of_rowCrcupd_fits (Laws.FixedBits.crcupd bits data crcin)]
    simp [encode, cmdField, BitVec.extractLsb'_or, Nat.mod_eq_of_lt hwf]
  | assemble alen plen clen align noack big seq =>
    obtain ⟨halen, hplen, hclen, halign⟩ := hwf
    rw [decode_of_rowAssemble_fits (Laws.FixedBits.assemble alen plen clen align noack big seq)]
    simp [encode, cmdField, BitVec.extractLsb'_or, Nat.mod_eq_of_lt halen, Nat.mod_eq_of_lt hplen,
      Nat.mod_eq_of_lt hclen, Nat.mod_eq_of_lt halign]
  | parse alen plen clen align rawlen =>
    obtain ⟨halen, hplen, hclen, halign, hrawlen⟩ := hwf
    rw [decode_of_rowParse_fits (Laws.FixedBits.parse alen plen clen align rawlen)]
    simp [encode, cmdField, BitVec.extractLsb'_or, Nat.mod_eq_of_lt halen, Nat.mod_eq_of_lt hplen,
      Nat.mod_eq_of_lt hclen, Nat.mod_eq_of_lt halign, Nat.mod_eq_of_lt hrawlen]

/-! ### A word from its fields -/

theorem cmdField_lt (w : CmdWord) (lo n : Nat) : cmdField w lo n < 2 ^ n := (w.extractLsb' lo n).isLt

/-- A field of a word, put back in its place, is the word under the field's mask. -/
theorem fieldAt_ofNat_cmdField (w : CmdWord) (lo n : Nat) :
    fieldAt (BitVec.ofNat n (cmdField w lo n)) lo = w &&& fieldAt (BitVec.allOnes n) lo := by
  rw [and_fieldAt_allOnes, cmdField, BitVec.ofNat_toNat, BitVec.setWidth_eq]

theorem fieldAt_ofBool_getLsbD (w : CmdWord) (lo : Nat) :
    fieldAt (BitVec.ofBool (w.getLsbD lo)) lo = w &&& fieldAt (BitVec.allOnes 1) lo := by
  have hbit : w.extractLsb' lo 1 = BitVec.ofBool (w.getLsbD lo) := by
    apply BitVec.eq_of_getLsbD_eq
    intro i hi
    obtain rfl : i = 0 := by omega
    simp
  rw [and_fieldAt_allOnes, hbit]

/-- The masks of format C's fields and of its row leave no bit out; the same holds of formats A and P below. -/
theorem encode_of_rowCrcupd_fits {w : CmdWord} (h : rowCrcupd.fits w) :
    encode (.crcupd (cmdField w 4 4) (w.extractLsb' 8 8) (w.extractLsb' 16 16)) = w := by
  have hpattern : w &&& 0x0000000F#32 = 0x1#32 := row_fits_iff.mp h
  have hmasks : fieldAt (BitVec.allOnes 16) 16 ||| fieldAt (BitVec.allOnes 8) 8 ||| fieldAt (BitVec.allOnes 4) 4 |||
      0x0000000F#32 = BitVec.allOnes 32 := by decide
  simp only [encode, fieldAt_ofNat_cmdField, ← and_fieldAt_allOnes, ← hpattern, ← BitVec.and_or_distrib_left, hmasks,
    BitVec.and_allOnes]

theorem encode_of_rowAssemble_fits {w : CmdWord} (h : rowAssemble.fits w) :
    encode (.assemble (cmdField w 4 6) (cmdField w 10 6) (cmdField w 16 2) (cmdField w 18 3)
      (w.getLsbD 21) (w.getLsbD 22) (w.extractLsb' 24 8)) = w := by
  have hpattern : w &&& 0x0080000F#32 = 0x2#32 := row_fits_iff.mp h
  have hmasks : fieldAt (BitVec.allOnes 8) 24 ||| fieldAt (BitVec.allOnes 1) 22 ||| fieldAt (BitVec.allOnes 1) 21 |||
      fieldAt (BitVec.allOnes 3) 18 ||| fieldAt (BitVec.allOnes 2) 16 ||| fieldAt (BitVec.allOnes 6) 10 |||
      fieldAt (BitVec.allOnes 6) 4 ||| 0x0080000F#32 = BitVec.allOnes 32 := by decide
  simp only [encode, fieldAt_ofNat_cmdField, fieldAt_ofBool_getLsbD, ← and_fieldAt_allOnes, ← hpattern,
    ← BitVec.and_or_distrib_left, hmasks, BitVec.and_allOnes]

theorem encode_of_rowParse_fits {w : CmdWord} (h : rowParse.fits w) :
    encode (.parse (cmdField w 4 6) (cmdField w 10 6) (cmdField w 16 2) (cmdField w 18 3) (cmdField w 21 7)) = w := by
  have hpattern : w &&& 0xF000000F#32 = 0x3#32 := row_fits_iff.mp h
  have hmasks : fieldAt (BitVec.allOnes 7) 21 ||| fieldAt (BitVec.allOnes 3) 18 ||| fieldAt (BitVec.allOnes 2) 16 |||
      fieldAt (BitVec.allOnes 6) 10 ||| fieldAt (BitVec.allOnes 6) 4 ||| 0xF000000F#32 = BitVec.allOnes 32 := by decide
  simp only [encode, fieldAt_ofNat_cmdField, ← hpattern, ← BitVec.and_or_distrib_left, hmasks, BitVec.and_allOnes]

/-- Settles O5: the command is the one of the row the word fits, its fields slices of the word, and their encoding
puts the slices back. -/
theorem encodeOfDecodeIsTheWord : Obligations.EncodeOfDecodeIsTheWord := by
  intro w i h
  have hfits := row_fits_of_decode h
  cases i with
  | crcupd bits data crcin =>
    cases (decode_of_rowCrcupd_fits hfits).symm.trans h
    exact ⟨cmdField_lt w 4 4, encode_of_rowCrcupd_fits hfits⟩
  | assemble alen plen clen align noack big seq =>
    cases (decode_of_rowAssemble_fits hfits).symm.trans h
    exact ⟨⟨cmdField_lt w 4 6, cmdField_lt w 10 6, cmdField_lt w 16 2, cmdField_lt w 18 3⟩,
      encode_of_rowAssemble_fits hfits⟩
  | parse alen plen clen align rawlen =>
    cases (decode_of_rowParse_fits hfits).symm.trans h
    exact ⟨⟨cmdField_lt w 4 6, cmdField_lt w 10 6, cmdField_lt w 16 2, cmdField_lt w 18 3, cmdField_lt w 21 7⟩,
      encode_of_rowParse_fits hfits⟩

/-- Settles O1: the decoder, run on each word. -/
theorem workedWordsDecode : Obligations.WorkedWordsDecode := by
  unfold Obligations.WorkedWordsDecode
  decide

end Sys2Proof.Proofs
end

section
/-! The lemmas of 10_state.md's and 70_reset_and_hazards.md's statements: EXEC ends with the response its request
gives and changes nothing else, so a step is known by its turn and this response. -/

namespace Sys2Proof.Proofs

open Sys2Proof Sys2Proof.Machine Sys2Proof.Safety

/-! ### EXEC and the request (R21) -/

/-- A command's response is the same in two states with one request latch: no command reads anything else. -/
theorem exec_endsWith_of_req_eq (i : Instr) {s t : State} (h : s.req = t.req) :
    ∃ r, exec i s = .next (endsWith s r) ∧ exec i t = .next (endsWith t r) := by
  have hlanes {n lo hi : Nat} (L : Lanes n) : agreeOn lo hi L L := fun _ _ _ => rfl
  cases i with
  | crcupd bits data crcin =>
    obtain ⟨r, hr⟩ := exec_crcupd_endsWith bits data crcin
    exact ⟨r, hr s, hr t⟩
  | assemble alen plen clen align noack big seq =>
    refine assembleReadsOnlyItsLanes alen plen clen align noack big seq s t fun _ => ?_
    rw [h]
    exact ⟨hlanes _, hlanes _⟩
  | parse alen plen clen align rawlen =>
    refine parseReadsOnlyItsLanes alen plen clen align rawlen s t fun _ _ => ?_
    rw [h]
    exact hlanes _

/-- Settles O38: the response is the one that the command gives in this state and any other with its request. -/
theorem everyCommandCompletesInOneStep : Obligations.EveryCommandCompletesInOneStep := by
  intro i s
  obtain ⟨r, he, -⟩ := exec_endsWith_of_req_eq i (s := s) rfl
  exact ⟨r, he⟩

/-- Settles O39: a reserved word ends with `ILLEGAL_COMMAND` in both states, and a command with one response. -/
theorem responseDependsOnTheRequestOnly : Obligations.ResponseDependsOnTheRequestOnly := by
  intro s t h
  cases hdec : decode s.req.cmd with
  | rejected why => exact ⟨_, execStep_endsWith_of_rejected hdec, execStep_endsWith_of_rejected (h ▸ hdec)⟩
  | command i =>
    rw [execStep_of_command hdec, execStep_of_command (h ▸ hdec)]
    exact exec_endsWith_of_req_eq i h

/-- All that EXEC does. -/
theorem execStep_eq_endsWith_responseOf (s : State) : execStep s = .next (endsWith s (responseOf s.req)) := by
  obtain ⟨r, hs, ht⟩ := responseDependsOnTheRequestOnly s { State.reset with req := s.req } rfl
  have hr : responseOf s.req = r := by rw [responseOf, ht]; rfl
  rw [hs, hr]

/-! ### A step by its turn (R162) -/

/-- EXEC runs from the state itself, or from the state with the block's turn taken. -/
theorem eq_of_nextMove_exec {s u : State} (h : nextMove s = .exec u) : u = s ∨ u = s.nextTurn := by
  obtain ⟨-, -, hm⟩ | ⟨-, -, hm⟩ | ⟨-, -, -, -, hm⟩ | ⟨r, -, -, -, hm⟩ | ⟨-, -, -, hm⟩ |
    ⟨-, -, -, hm⟩ | ⟨-, -, -, hm⟩ | ⟨-, -, -, hm⟩ | ⟨-, -, hm⟩ := nextMove_cases s
  all_goals cases h.symm.trans hm
  · exact .inl rfl
  · exact .inl rfl
  · exact .inr rfl

/-- A step that is EXEC gives the response of the request latch; the latch and the host's reads stay. -/
theorem step_of_nextMove_exec {s u : State} (h : nextMove s = .exec u) :
    step s = .next (endsWith u (responseOf s.req)) ∧ u.req = s.req ∧ u.reads = s.reads := by
  have hreq : u.req = s.req := by obtain rfl | rfl := eq_of_nextMove_exec h <;> rfl
  have hreads : u.reads = s.reads := by obtain rfl | rfl := eq_of_nextMove_exec h <;> rfl
  refine ⟨?_, hreq, hreads⟩
  rw [step_of_exec h, execStep_eq_endsWith_responseOf, hreq]

/-! ### The invariant -/

/-- Settles O49: right after reset no command is in flight, no response is held and nothing has been read. -/
theorem resetMeetsTheInvariant : Obligations.ResetMeetsTheInvariant where
  exclusive := fun hbusy => nomatch hbusy
  response := fun hvalid => nomatch hvalid
  reads := fun _ hr => nomatch hr

theorem inv_endsWith_responseOf {s u : State} (hinv : Inv s) (hreq : u.req = s.req) (hreads : u.reads = s.reads) :
    Inv (endsWith u (responseOf s.req)) where
  exclusive := fun hbusy => nomatch hbusy
  response := fun _ => congrArg responseOf hreq.symm
  reads := fun r hr => hinv.reads r (hreads ▸ hr)

theorem inv_issue {s : State} (hinv : Inv s) (r : Request) : Inv (s.issue r) where
  exclusive := fun _ => rfl
  response := fun hvalid => nomatch hvalid
  reads := hinv.reads

theorem inv_nextTurn {s : State} (hinv : Inv s) : Inv s.nextTurn where
  exclusive := hinv.exclusive
  response := hinv.response
  reads := hinv.reads

theorem inv_readOut {s : State} (hinv : Inv s) (hvalid : s.rspValid = true) : Inv s.readOut where
  exclusive := hinv.exclusive
  response := hinv.response
  reads := fun r hr => by
    obtain rfl | hr := List.mem_cons.mp hr
    · exact ⟨s.req, hinv.response hvalid⟩
    · exact hinv.reads r hr

theorem inv_resetBlock {s : State} (hinv : Inv s) : Inv s.resetBlock where
  exclusive := fun _ => rfl
  response := fun hvalid => nomatch hvalid
  reads := hinv.reads

/-- Settles O50: EXEC and each step of the host keep the invariant. -/
theorem everyStepKeepsTheInvariant : Obligations.EveryStepKeepsTheInvariant := by
  intro s t hinv h
  obtain ⟨u, -, hm, -⟩ | ⟨-, -, rfl⟩ | ⟨r, -, -, -, rfl⟩ | ⟨-, -, -, rfl⟩ | ⟨-, -, hvalid, rfl⟩ |
    ⟨-, -, rfl⟩ := step_next_cases h
  · obtain ⟨hstep, hreq, hreads⟩ := step_of_nextMove_exec hm
    obtain rfl := Host.Outcome.next.inj (hstep.symm.trans h)
    exact inv_endsWith_responseOf hinv hreq hreads
  · exact hinv
  · exact inv_issue (inv_nextTurn hinv) r
  · exact inv_nextTurn hinv
  · exact inv_readOut (inv_nextTurn hinv) hvalid
  · exact inv_resetBlock (inv_nextTurn hinv)

/-! ### What each step writes -/

/-- Settles O46: EXEC, READ and the turns that do nothing leave the request latch alone. -/
theorem onlyIssueAndResetWriteTheRequest : Obligations.OnlyIssueAndResetWriteTheRequest := by
  intro s t h hne
  obtain ⟨u, -, hm, -⟩ | ⟨-, -, rfl⟩ | ⟨r, rest, hs, hbusy, rfl⟩ | ⟨-, -, -, rfl⟩ | ⟨-, -, -, rfl⟩ |
    ⟨rest, hs, -⟩ := step_next_cases h
  · obtain ⟨hstep, hreq, -⟩ := step_of_nextMove_exec hm
    obtain rfl := Host.Outcome.next.inj (hstep.symm.trans h)
    exact absurd hreq hne
  · exact absurd rfl hne
  · exact .inl ⟨r, rest, hs, hbusy, rfl⟩
  · exact absurd rfl hne
  · exact absurd rfl hne
  · exact .inr ⟨rest, hs⟩

/-- Settles O47: every step but EXEC leaves `RSP_VALID` as it is or clears it. -/
theorem onlyExecMakesAResponse : Obligations.OnlyExecMakesAResponse := by
  intro s t h hbefore hafter
  obtain ⟨u, hbusy, hm, -⟩ | ⟨-, -, rfl⟩ | ⟨r, -, -, -, rfl⟩ | ⟨-, -, -, rfl⟩ | ⟨-, -, hvalid, -⟩ |
    ⟨-, -, rfl⟩ := step_next_cases h
  · obtain ⟨hstep, -, -⟩ := step_of_nextMove_exec hm
    obtain rfl := Host.Outcome.next.inj (hstep.symm.trans h)
    exact ⟨hbusy, rfl, rfl⟩
  · cases hbefore.symm.trans hafter
  · cases hafter
  · cases hbefore.symm.trans hafter
  · cases hbefore.symm.trans hvalid
  · cases hafter

/-- Settles O48: with a command in flight every turn is EXEC but READ, which faults, and reset. -/
theorem commandInFlightIsExecuted : Obligations.CommandInFlightIsExecuted := by
  intro s hbusy hvalid
  have hexec {u : State} (hm : nextMove s = .exec u) :
      ∃ t, step s = .next t ∧ t.busy = false ∧ t.rspValid = true ∧ t.rsp = responseOf s.req :=
    ⟨_, (step_of_nextMove_exec hm).1, rfl, rfl, rfl⟩
  obtain ⟨-, hidle, -⟩ | ⟨-, -, hm⟩ | ⟨-, -, -, -, hm⟩ | ⟨-, -, -, hidle, -⟩ | ⟨-, -, -, hm⟩ |
    ⟨-, -, hidle, -⟩ | ⟨-, -, hheld, -⟩ | ⟨rest, hs, -, hm⟩ | ⟨rest, hs, -⟩ := nextMove_cases s
  · cases hbusy.symm.trans hidle
  · exact .inl (hexec hm)
  · exact .inl (hexec hm)
  · cases hbusy.symm.trans hidle
  · exact .inl (hexec hm)
  · cases hbusy.symm.trans hidle
  · cases hvalid.symm.trans hheld
  · exact .inr (.inr ⟨⟨rest, hs⟩, step_of_badRead hm⟩)
  · exact .inr (.inl ⟨rest, hs⟩)

end Sys2Proof.Proofs
end

section
/-! The lemmas of 70_reset_and_hazards.md's statements of single turns (R160, R162) and of 60_exceptions.md's classes of
outcomes (R141): what each turn of the schedule does, and when a run of them is good. -/

namespace Sys2Proof.Proofs

open Sys2Proof Sys2Proof.Machine Sys2Proof.Safety

/-! ### Each turn of the schedule -/

theorem nextTurn_eq {s : State} {turn : Turn} {rest : List Turn} (hs : s.schedule = turn :: rest) :
    s.nextTurn = { s with schedule := rest } := by
  simp only [State.nextTurn, hs, List.tail_cons]

theorem nextMove_of_nil {s : State} (hs : s.schedule = []) (hbusy : s.busy = true) : nextMove s = .exec s := by
  simp [nextMove, hs, hbusy]

theorem nextMove_of_exec {s : State} {rest : List Turn} (hs : s.schedule = .exec :: rest) (hbusy : s.busy = true) :
    nextMove s = .exec { s with schedule := rest } := by
  simp [nextMove, hs, hbusy, nextTurn_eq hs]

theorem nextMove_of_exec_idle {s : State} {rest : List Turn} (hs : s.schedule = .exec :: rest)
    (hidle : s.busy = false) : nextMove s = .host { s with schedule := rest } := by
  simp [nextMove, hs, hidle, nextTurn_eq hs]

/-- While a command is in flight an ISSUE waits and the block executes (R162). -/
theorem nextMove_of_issue_busy {s : State} {r : Request} {rest : List Turn} (hs : s.schedule = .issue r :: rest)
    (hbusy : s.busy = true) : nextMove s = .exec s := by
  simp [nextMove, hs, hbusy]

theorem nextMove_of_issue {s : State} {r : Request} {rest : List Turn} (hs : s.schedule = .issue r :: rest)
    (hidle : s.busy = false) : nextMove s = .host (State.issue { s with schedule := rest } r) := by
  simp [nextMove, hs, hidle, nextTurn_eq hs]

theorem nextMove_of_read_valid {s : State} {rest : List Turn} (hs : s.schedule = .read :: rest)
    (hvalid : s.rspValid = true) : nextMove s = .host (State.readOut { s with schedule := rest }) := by
  simp [nextMove_of_read hs, hvalid, nextTurn_eq hs]

theorem nextMove_of_reset {s : State} {rest : List Turn} (hs : s.schedule = .reset :: rest) :
    nextMove s = .host (State.resetBlock { s with schedule := rest }) := by
  simp [nextMove, hs, nextTurn_eq hs]

/-! ### The steps of the host protocol -/

/-- Settles O40: each of the three schedules makes the turn EXEC, and EXEC is what the decoder says. -/
theorem stepRunsTheDecodedCommand : Obligations.StepRunsTheDecodedCommand := by
  intro s hbusy
  have hexec {rest : List Turn} (hs : s.schedule = .exec :: rest) := step_of_exec (nextMove_of_exec hs hbusy)
  have hissue {r : Request} {rest : List Turn} (hs : s.schedule = .issue r :: rest) :=
    step_of_exec (nextMove_of_issue_busy hs hbusy)
  have hnil (hs : s.schedule = []) := step_of_exec (nextMove_of_nil hs hbusy)
  refine ⟨fun i hdec => ⟨fun rest hs => ?_, fun r rest hs => ?_, fun hs => ?_⟩,
    fun why hdec => ⟨fun rest hs => ?_, fun r rest hs => ?_, fun hs => ?_⟩⟩
  · exact (hexec hs).trans (execStep_of_command hdec)
  · exact (hissue hs).trans (execStep_of_command hdec)
  · exact (hnil hs).trans (execStep_of_command hdec)
  · exact (hexec hs).trans (execStep_endsWith_of_rejected hdec)
  · exact (hissue hs).trans (execStep_endsWith_of_rejected hdec)
  · exact (hnil hs).trans (execStep_endsWith_of_rejected hdec)

theorem tableWord_toNat (w : CmdWord) : tableWord 32 w.toNat = w := by
  rw [tableWord, Nat.mod_eq_of_lt w.isLt, BitVec.ofNat_toNat, BitVec.setWidth_eq]

/-- Settles O41: the placed word waits with `BUSY` 1 and the block's turn next. -/
theorem placedWordIsExecutedNext : Obligations.PlacedWordIsExecutedNext := by
  intro s w
  rw [State.withFetchWord, tableWord_toNat]
  exact step_of_exec (nextMove_of_exec (State.placeCommand_schedule s w) (State.placeCommand_busy s w))

/-- Settles O42: the four turns, each by its move. -/
theorem hostProtocolSteps : Obligations.HostProtocolSteps := by
  intro s
  refine ⟨fun r rest hidle hs => ?_, fun rest hvalid hs => ?_, fun rest hbusy hs => ?_, fun r rest hbusy hs => ?_⟩
  · exact ⟨freeResponse s.draws, step_of_host (nextMove_of_issue hs hidle)⟩
  · exact step_of_host (nextMove_of_read_valid hs hvalid)
  · exact ⟨_, (step_of_nextMove_exec (nextMove_of_exec hs hbusy)).1, rfl⟩
  · exact ⟨_, (step_of_nextMove_exec (nextMove_of_issue_busy hs hbusy)).1, rfl⟩

/-- Settles O44: with `BUSY` cleared the block's turn has no command to execute. -/
theorem resetAbandonsTheCommand : Obligations.ResetAbandonsTheCommand := by
  refine ⟨rfl, rfl, fun s rest hs => ⟨_, step_of_host (nextMove_of_reset hs), rfl, rfl, rfl, rfl, ?_⟩⟩
  exact fun rest' hrest => step_of_host (nextMove_of_exec_idle hrest rfl)

/-! ### Good states (R141) -/

/-- The codes of the results and of the clean rejection. -/
theorem treatment_result_or_cleanRejection_iff : ∀ c : BitVec 4,
    ((Status.ofCode? c).map Status.treatment = some .result ∨
      (Status.ofCode? c).map Status.treatment = some .cleanRejection) ↔ c ∈ [0#4, 1#4, 2#4] := by
  decide

theorem goodState_iff {s : State} :
    goodState s = true ↔ (s.rspValid = true → s.rsp.status ∈ [0#4, 1#4, 2#4]) := by
  rw [← treatment_result_or_cleanRejection_iff]
  cases hvalid : s.rspValid <;> simp [goodState, treatmentOf, hvalid]

theorem goodState_endsWith_iff {s : State} {r : Response} :
    goodState (endsWith s r) = true ↔ r.status ∈ [0#4, 1#4, 2#4] := by
  rw [goodState_iff]
  exact ⟨fun h => h rfl, fun h _ => h⟩

/-! ### Good runs -/

/-- The turn at a state gives a defined outcome: a READ finds a response, and an EXEC gives a result or the clean
rejection. -/
def TurnDefined (s : State) : Prop :=
  (∀ rest, s.schedule = .read :: rest → s.rspValid = true) ∧
    (s.busy = true →
      (s.schedule = [] ∨ (∃ rest, s.schedule = .exec :: rest) ∨ (∃ r rest, s.schedule = .issue r :: rest)) →
      (responseOf s.req).status ∈ [0#4, 1#4, 2#4])

/-- From a good state, the next state is there and good exactly where the turn gives a defined outcome. -/
theorem turnDefined_iff {s : State} (hgood : goodState s = true) :
    TurnDefined s ↔ ∃ t, step s = .next t ∧ goodState t = true := by
  obtain ⟨hs, hb, hm⟩ | ⟨hs, hb, hm⟩ | ⟨r, rest, hs, hb, hm⟩ | ⟨r, rest, hs, hb, hm⟩ | ⟨rest, hs, hb, hm⟩ |
    ⟨rest, hs, hb, hm⟩ | ⟨rest, hs, hv, hm⟩ | ⟨rest, hs, hv, hm⟩ | ⟨rest, hs, hm⟩ := nextMove_cases s
  · simp [TurnDefined, hs, hb, step_of_idle hm, hgood]
  · simp [TurnDefined, hs, hb, step_of_nextMove_exec hm, goodState_endsWith_iff]
  · simp [TurnDefined, hs, hb, step_of_nextMove_exec hm, goodState_endsWith_iff]
  · simp [TurnDefined, hs, hb, step_of_host hm, goodState_iff]
  · simp [TurnDefined, hs, hb, step_of_nextMove_exec hm, goodState_endsWith_iff]
  · simpa [TurnDefined, hs, hb, step_of_host hm, goodState_iff] using hgood
  · simpa [TurnDefined, hs, hv, step_of_host hm, goodState_iff] using hgood
  · simp [TurnDefined, hs, hv, step_of_badRead hm]
  · simp [TurnDefined, hs, step_of_host hm, goodState_iff]

theorem goodRun_succ_iff {k : Nat} {s : State} :
    goodRun (k + 1) s = true ↔ goodState s = true ∧ ∃ t, step s = .next t ∧ goodRun k t = true := by
  rw [goodRun, Bool.and_eq_true]
  cases step s <;> simp

theorem stepN_succ_eq_next_iff {k : Nat} {s u : State} :
    stepN (k + 1) s = .next u ↔ ∃ t, step s = .next t ∧ stepN k t = .next u := by
  rw [stepN]
  cases step s <;> simp

theorem goodRun_iff {k : Nat} {s : State} :
    goodRun k s = true ↔ goodState s = true ∧ ∀ j t, j < k → stepN j s = .next t → TurnDefined t := by
  induction k generalizing s with
  | zero => simp [goodRun]
  | succ k ih =>
    rw [goodRun_succ_iff]
    constructor
    · rintro ⟨hgood, t, ht, hrun⟩
      obtain ⟨hgoodt, hrest⟩ := ih.mp hrun
      refine ⟨hgood, fun j u hj hu => ?_⟩
      cases j with
      | zero =>
        obtain rfl := Host.Outcome.next.inj hu
        exact (turnDefined_iff hgood).mpr ⟨t, ht, hgoodt⟩
      | succ j =>
        obtain ⟨t', ht', hu⟩ := stepN_succ_eq_next_iff.mp hu
        obtain rfl := Host.Outcome.next.inj (ht.symm.trans ht')
        exact hrest j u (by omega) hu
    · rintro ⟨hgood, hall⟩
      obtain ⟨t, ht, hgoodt⟩ := (turnDefined_iff hgood).mp (hall 0 s (by omega) rfl)
      exact ⟨hgood, t, ht, ih.mpr ⟨hgoodt, fun j u hj hu =>
        hall (j + 1) u (by omega) (stepN_succ_eq_next_iff.mpr ⟨t, ht, hu⟩)⟩⟩

/-- Settles O35: by induction on the number of steps, a defined turn leading from one good state to the next. -/
theorem goodRunExactlyWhenReadsAndStatusesAre : Obligations.GoodRunExactlyWhenReadsAndStatusesAre := by
  intro k s
  rw [goodRun_iff, goodState_iff]
  rfl

end Sys2Proof.Proofs
end

section
/-! The lemmas of the statements of the checks (60_exceptions.md): the check of a command decides its status (R140,
R142), a command with legal operands fails none, and ASSEMBLE's and PARSE's length checks come in R142's order. -/

namespace Sys2Proof.Proofs

open Sys2Proof Sys2Proof.Machine Sys2Proof.Safety

/-! ### The status a command can end with (R140) -/

theorem exec_status_mem_statusCodes {i : Instr} {s t : State} (h : exec i s = .next t) :
    t.rsp.status ∈ statusCodes i := by
  have hend {u : State} (he : exec i s = .next u) : u = t := Host.Outcome.next.inj (he.symm.trans h)
  cases i with
  | crcupd bits data crcin =>
    obtain ⟨st, hst, he⟩ | ⟨-, he⟩ := execCrcupd_cases bits data crcin s
    · obtain rfl := hend he
      obtain rfl := bitcountStatus_eq_some hst
      simp [statusCodes, Status.code]
    · obtain rfl := hend he
      exact List.mem_cons_self
  | assemble alen plen clen align noack big seq =>
    obtain ⟨st, hst, he⟩ | ⟨-, he⟩ := execAssemble_cases alen plen clen align noack big seq s
    · obtain rfl := hend he
      obtain rfl | rfl | rfl := lengthStatus_eq_some hst <;> simp [statusCodes, Status.code]
    · obtain rfl := hend he
      exact List.mem_cons_self
  | parse alen plen clen align rawlen =>
    obtain ⟨st, hst, he⟩ | ⟨-, -, he⟩ | ⟨-, -, he⟩ := execParse_cases alen plen clen align rawlen s
    · obtain rfl := hend he
      obtain rfl | rfl | rfl | rfl := parseStatus_eq_some hst <;> simp [statusCodes, Status.code]
    · obtain rfl := hend he
      exact List.mem_cons_self
    · obtain rfl := hend he
      simp [statusCodes, Status.code]

theorem toNat_lt_of_mem_statusCodes (i : Instr) : ∀ c ∈ statusCodes i, c.toNat < 8 := by
  cases i <;> simp [statusCodes]

/-- Settles O33: the codes are read off the table, and a word ends as its command does or with `ILLEGAL_COMMAND`. -/
theorem statusCodesByCommand : Obligations.StatusCodesByCommand := by
  refine ⟨by decide, fun i s t h => exec_status_mem_statusCodes h, fun s t h => ?_⟩
  cases hdec : decode s.req.cmd with
  | rejected why =>
    obtain rfl := Host.Outcome.next.inj ((execStep_of_rejected hdec).symm.trans h)
    exact (by decide : Status.illegalCommand.code.toNat < 8)
  | command i =>
    rw [execStep_of_command hdec] at h
    exact toNat_lt_of_mem_statusCodes i _ (exec_status_mem_statusCodes h)

/-! ### The check of a command and its end -/

theorem exec_of_commandStatus {i : Instr} {st : Status} (h : commandStatus i = some st) (s : State) :
    exec i s = .next (endsWith s (failure st.code)) := by
  obtain ⟨st', hst, he⟩ | ⟨hnone, -⟩ | ⟨hnone, -⟩ := exec_cases i s
  · obtain rfl := Option.some.inj (hst.symm.trans h)
    exact he
  · cases hnone.symm.trans h
  · cases hnone.symm.trans h

/-- A command that fails no check ends with OK or with `CRC_MISMATCH`. -/
theorem exec_of_commandStatus_none {i : Instr} (h : commandStatus i = none) (s : State) :
    ∃ r, exec i s = .next (endsWith s r) ∧ (r.status = 0#4 ∨ r.status = 1#4) := by
  obtain ⟨st, hst, -⟩ | ⟨-, r, he⟩ | ⟨-, -, he⟩ := exec_cases i s
  · cases hst.symm.trans h
  · exact ⟨_, he, .inl rfl⟩
  · exact ⟨_, he, .inr rfl⟩

theorem commandStatus_of_admitted {i : Instr} (h : i.Admitted) : commandStatus i = none := by
  cases i with
  | crcupd bits data crcin => exact bitcountStatus_eq_none.mpr h
  | assemble alen plen clen align noack big seq => exact lengthStatus_eq_none.mpr h
  | parse alen plen clen align rawlen =>
    obtain ⟨hadm, hraw, -⟩ := h
    exact parseStatus_eq_none.mpr ⟨hadm, hraw⟩

/-- Settles O34: EXEC leaves a valid response, whose status decides; with legal operands no check fails. -/
theorem goodExactlyForDefinedOutcomes : Obligations.GoodExactlyForDefinedOutcomes := by
  constructor
  · intro s t h
    obtain rfl := Host.Outcome.next.inj ((execStep_eq_endsWith_responseOf s).symm.trans h)
    exact goodState_endsWith_iff
  · intro i s t h hadm
    obtain ⟨r, he, hstatus⟩ := exec_of_commandStatus_none (commandStatus_of_admitted hadm) s
    obtain rfl := Host.Outcome.next.inj (he.symm.trans h)
    rw [goodState_endsWith_iff]
    obtain hok | hmismatch := hstatus
    · simp [hok]
    · simp [hmismatch]

/-! ### The order of the length checks (R142) -/

theorem lengthStatus_in_order (alen plen clen align : Nat) :
    (align ≠ 0 → lengthStatus alen plen clen align = some .alignUnsupported) ∧
    (align = 0 → 33 ≤ plen → lengthStatus alen plen clen align = some .payloadTooLong) ∧
    (align = 0 → plen ≤ 32 → (alen = 0 ∨ 33 ≤ alen) → lengthStatus alen plen clen align = some .badLength) ∧
    (align = 0 → plen ≤ 32 → 1 ≤ alen → alen ≤ 32 → (clen = 0 ∨ 3 ≤ clen) →
      lengthStatus alen plen clen align = some .badLength) := by
  unfold lengthStatus
  refine ⟨fun ha => ?_, fun ha hp => ?_, fun ha hp hl => ?_, fun ha hp hl hl' hc => ?_⟩
  · rw [if_pos ha]
  · rw [if_neg (by omega), if_pos (by omega)]
  · rw [if_neg (by omega), if_neg (by omega), if_pos (by omega)]
  · rw [if_neg (by omega), if_neg (by omega), if_neg (by omega), if_pos (by omega)]

theorem parseStatus_of_lengthStatus {alen plen clen align rawlen : Nat} {st : Status}
    (h : lengthStatus alen plen clen align = some st) : parseStatus alen plen clen align rawlen = some st := by
  simp only [parseStatus, h]

/-- PARSE's last check before it reads a lane (R126). -/
theorem exec_parse_of_short {alen plen clen align rawlen : Nat} (hadm : Instr.LengthsAdmitted alen plen clen align)
    (hshort : rawlen < 1 + alen + plen + clen) (s : State) :
    exec (.parse alen plen clen align rawlen) s = .next (endsWith s (failure 5#4)) := by
  have hstatus : parseStatus alen plen clen align rawlen = some .shortBuffer := by
    simp only [parseStatus, lengthStatus_eq_none.mpr hadm, if_pos hshort]
  exact exec_of_commandStatus (i := .parse alen plen clen align rawlen) hstatus s

/-- Settles O20: the length check is ASSEMBLE's check. -/
theorem assembleRejectsInOrder : Obligations.AssembleRejectsInOrder := by
  intro alen plen clen align noack big seq s i
  have hend {st : Status} (h : lengthStatus alen plen clen align = some st) :
      exec i s = .next (endsWith s (failure st.code)) := exec_of_commandStatus (i := i) h s
  obtain ⟨halign, hplen, halen, hclen⟩ := lengthStatus_in_order alen plen clen align
  exact ⟨fun ha => hend (halign ha), fun ha hp => hend (hplen ha hp), fun ha hp hl => hend (halen ha hp hl),
    fun ha hp hl hl' hc => hend (hclen ha hp hl hl' hc)⟩

/-- Settles O25: the length check comes first in PARSE's check, and where it passes the buffer's decides. -/
theorem parseRejectsInOrder : Obligations.ParseRejectsInOrder := by
  intro alen plen clen align rawlen s i
  have hend {st : Status} (h : lengthStatus alen plen clen align = some st) :
      exec i s = .next (endsWith s (failure st.code)) :=
    exec_of_commandStatus (i := i) (parseStatus_of_lengthStatus h) s
  obtain ⟨halign, hplen, halen, hclen⟩ := lengthStatus_in_order alen plen clen align
  exact ⟨fun ha => hend (halign ha), fun ha hp => hend (hplen ha hp), fun ha hp hl => hend (halen ha hp hl),
    fun ha hp hl hl' hc => hend (hclen ha hp hl hl' hc), fun hadm hshort => exec_parse_of_short hadm hshort s⟩

end Sys2Proof.Proofs
end

section
/-! The lemmas of 40_crc_engine.md's remaining statements: the fold is linear in seed and bytes together, so a flipped
bit leaves a power of x (R88), whose bytes are not zero as long as it is short enough; and a masked CRCUPD (R84). -/

namespace Sys2Proof.Proofs

open Sys2Proof Sys2Proof.Machine Sys2Proof.Safety

/-! ### The fold (R81, R86) -/

/-- Settles O8: appending a byte is one more step of the fold. -/
theorem crcOfBytesFoldsEachByte : Obligations.CrcOfBytesFoldsEachByte := by
  refine ⟨rfl, fun s b => ?_⟩
  rw [crc16, crcFrom_append, crcFrom_cons, crcFrom_nil, ← crc16]

/-- Settles O9: the engine, run on the nine bytes. -/
theorem crcCheckValue : Obligations.CrcCheckValue := by
  unfold Obligations.CrcCheckValue
  decide +kernel

/-! ### Linearity (R88) -/

theorem crcUpdate_xor (c c' : Word16) (d d' : Byte) (k : Nat) :
    crcUpdate (c ^^^ c') (d ^^^ d') k = crcUpdate c d k ^^^ crcUpdate c' d' k := by
  have hparts : c ^^^ c' ^^^ (inHighByte d ^^^ inHighByte d') = (c ^^^ inHighByte d) ^^^ (c' ^^^ inHighByte d') := by
    ac_rfl
  rw [crcUpdate, inHighByte_xor, hparts, crcShifts_xor, crcUpdate, crcUpdate]

theorem crcFrom_zipWith_xor (c c' : Word16) {s e : List Byte} (h : s.length = e.length) :
    crcFrom (c ^^^ c') (List.zipWith (fun a b => a ^^^ b) s e) = crcFrom c s ^^^ crcFrom c' e := by
  induction s generalizing c c' e with
  | nil =>
    obtain rfl := List.length_eq_zero_iff.mp h.symm
    rfl
  | cons a s ih =>
    cases e with
    | nil => cases h
    | cons b e => rw [List.zipWith_cons_cons, crcFrom_cons, crcUpdate_xor, ih _ _ (Nat.succ.inj h), crcFrom_cons,
        crcFrom_cons]

/-- Settles O12: the seed is CRC_INIT exclusive-or 0. -/
theorem crcIsLinear : Obligations.CrcIsLinear := by
  intro s e h
  have hlinear := crcFrom_zipWith_xor Config.crcInit 0#16 h
  rwa [BitVec.xor_zero] at hlinear

/-! ### The remainder of a flipped bit (R88) -/

theorem crcFrom_zero_replicate_zero (n : Nat) : crcFrom 0#16 (List.replicate n 0#8) = 0#16 := by
  induction n with
  | zero => rfl
  | succ n ih =>
    have hstep : crcUpdate 0#16 0#8 8 = 0#16 := crcUpdate_inHighByte_self 0#8 8
    rw [List.replicate_succ, crcFrom_cons, hstep, ih]

/-- Multiplication by x is injective modulo the polynomial: its constant term 1 marks the values that overflowed. -/
theorem crcShift_ne_zero {r : Word16} (h : r ≠ 0#16) : crcShift r ≠ 0#16 := by
  intro hzero
  have hlt := r.isLt
  have hpos : r.toNat ≠ 0 := fun h0 => h (BitVec.eq_of_toNat_eq h0)
  have hnat := congrArg BitVec.toNat hzero
  rw [crcShift_toNat] at hnat
  split at hnat
  · have hpoly : 2 * r.toNat % 65536 = 0x1021 := Nat.xor_eq_zero_iff.mp hnat
    omega
  · have hdouble : 2 * r.toNat % 65536 = 0 := hnat
    omega

theorem crcShifts_ne_zero (k : Nat) {r : Word16} (h : r ≠ 0#16) : crcShifts k r ≠ 0#16 := by
  induction k generalizing r with
  | zero => exact h
  | succ k ih => exact ih (crcShift_ne_zero h)

/-- The powers of x from `x^16` to `x^584`, each computed from the one before it, are no multiples of 256. -/
theorem mod_ne_zero_of_mem_iterate_engineLoop : ∀ n ∈ List.iterate (engineLoop 1) 0x1021 569, n % 256 ≠ 0 := by
  decide +kernel

theorem loByte_ne_zero_of_mod {c : Word16} (h : c.toNat % 256 ≠ 0) : loByte c ≠ 0#8 := by
  intro hzero
  have hnat := congrArg BitVec.toNat hzero
  rw [loByte_eq_mod, BitVec.toNat_ofNat, BitVec.toNat_ofNat] at hnat
  omega

/-- R88's bound for the low byte. -/
theorem loByte_xPow_ne_zero {d : Nat} (hd : d ≤ 568) : loByte (xPow (d + 16)) ≠ 0#8 := by
  refine loByte_ne_zero_of_mod (mod_ne_zero_of_mem_iterate_engineLoop _ ?_)
  rw [xPow_add_sixteen_toNat, engineLoop_eq_iterate]
  exact List.mem_iterate.mpr ⟨d, by omega, rfl⟩

/-- Settles O13: zero bytes leave the zero seed, and the flipped bit leaves its power of x. -/
theorem singleBitErrorRemainder : Obligations.SingleBitErrorRemainder := by
  refine ⟨fun n i b hi hb => ?_, fun d => crcShifts_ne_zero _ (by decide), fun d hd => hiByte_xPow_ne_zero hd,
    fun d hd => loByte_xPow_ne_zero hd⟩
  rw [crcFrom_flipBit 0#16 (by simpa using hi) hb, crcFrom_zero_replicate_zero, BitVec.zero_xor, List.length_replicate]

theorem loByte_xor (a b : Word16) : loByte (a ^^^ b) = loByte a ^^^ loByte b := BitVec.extractLsb'_xor

theorem loByte_crc16_flipBit_ne {s : List Byte} {i b : Nat} (hs : s.length ≤ 64) (hi : i < s.length) (hb : b < 8) :
    loByte (crc16 (flipBit s i b)) ≠ loByte (crc16 s) := by
  rw [crc16, crcFrom_flipBit _ hi hb, loByte_xor, ← crc16]
  have hpow := loByte_xPow_ne_zero (d := 8 * (s.length - 1 - i) + b) (by omega)
  exact fun h => hpow (by simpa using h)

/-- Settles O14: in 64 bytes a bit stands at most 511 places before the end. -/
theorem singleBitFlipChangesBothCrcBytes : Obligations.SingleBitFlipChangesBothCrcBytes :=
  fun _ _ _ hs hi hb => ⟨hiByte_crc16_flipBit_ne hs hi hb, loByte_crc16_flipBit_ne hs hi hb⟩

/-! ### A masked byte (R84) -/

/-- Settles O18: CRCUPD gives the engine's value, and that of a masked byte is the bit-serial one. -/
theorem maskedByteFoldsItsHighBits : Obligations.MaskedByteFoldsItsHighBits := by
  intro c d k s hlo hhi
  have hmasked := crcUpdate_masked_eq_bitSerial c d hhi
  constructor
  · intro hd
    rw [(crcupdResult k d c s).1 ⟨hlo, hhi⟩, ← hmasked, hd]
  · rw [crcbits, (crcupdResult k (d &&& maskHigh k) c s).1 ⟨hlo, hhi⟩, hmasked]

end Sys2Proof.Proofs
end

section
/-! The lemmas of 42_frame_parser.md's remaining statement and of U9 in 93_implementation_defined.md: PARSE's test sees
the two lengths' sum only (R131), and passes on a built frame for either value of CRC1_BYTE. -/

namespace Sys2Proof.Proofs

open Sys2Proof Sys2Proof.Machine Sys2Proof.Safety

/-- Settles O28: the buffer passes the test as the built frame does, and its candidates are the frame's two parts. -/
theorem eitherCrcByteChoiceRoundTrips : Obligations.EitherCrcByteChoiceRoundTrips := by
  intro which alen plen clen align A P F hadm ha hp hlanes
  obtain ⟨hbytes, hcrc⟩ := buildFrame_endsWithItsCrc which hadm ha hp
  have htest : EndsWithItsCrc which F (alen + plen) clen :=
    (endsWithItsCrc_congr fun j hlo hhi => hlanes j hlo (by omega)).mpr hcrc
  have hparts : memRead F 1 (alen + plen) = A ++ P :=
    (memRead_eq_iff.mpr fun j hlo hhi => hlanes j hlo (by omega)).trans hbytes
  exact ⟨(frameAccepted_iff hadm).mpr htest, (memRead_add_eq_append_iff ha).mp hparts⟩

open Classical in
/-- With admitted lengths PARSE's status is decided by `RAWLEN`, `CLEN` and the sum of the two lengths. -/
theorem status_of_exec_parse {alen plen clen align rawlen : Nat} {s t : State}
    (hadm : Instr.LengthsAdmitted alen plen clen align) (h : exec (.parse alen plen clen align rawlen) s = .next t) :
    t.rsp.status =
      if rawlen < 1 + (alen + plen) + clen then 5#4
      else if EndsWithItsCrc Config.crc1Byte s.req.fIn (alen + plen) clen then 0#4 else 1#4 := by
  have hend {u : State} (he : exec (.parse alen plen clen align rawlen) s = .next u) : u = t :=
    Host.Outcome.next.inj (he.symm.trans h)
  by_cases hshort : rawlen < 1 + (alen + plen) + clen
  · obtain rfl := hend (exec_parse_of_short hadm (by omega) s)
    rw [if_pos hshort]
    rfl
  · rw [if_neg hshort]
    by_cases hcrc : EndsWithItsCrc Config.crc1Byte s.req.fIn (alen + plen) clen
    · obtain rfl := hend (exec_parse_of_endsWithItsCrc hadm (by omega) hcrc)
      rw [if_pos hcrc]
      rfl
    · obtain rfl := hend (exec_parse_of_not_endsWithItsCrc hadm (by omega) hcrc)
      rw [if_neg hcrc]
      rfl

/-- A 1-byte CRC field is the first byte of a 2-byte one. -/
theorem endsWithItsCrc_one_of_two {F : Lanes 127} {alen plen align : Nat}
    (hadm : Instr.LengthsAdmitted alen plen 2 align) (h : EndsWithItsCrc Config.crc1Byte F (alen + plen) 2) :
    Instr.LengthsAdmitted alen plen 1 align ∧ EndsWithItsCrc Config.crc1Byte F (alen + plen) 1 := by
  obtain ⟨hhi, -⟩ := (endsWithItsCrc_iff_bytes hadm).mp h
  obtain ⟨halign, hplen, halen, -⟩ := hadm
  have hadm' : Instr.LengthsAdmitted alen plen 1 align := ⟨halign, hplen, halen, .inl rfl⟩
  exact ⟨hadm', (endsWithItsCrc_iff_bytes hadm').mpr ⟨hhi, fun htwo => by cases htwo⟩⟩

/-- Settles O29: equal sums give one status, and what passes with two CRC bytes passes with the first of them. -/
theorem equalSumHypothesesAgree : Obligations.EqualSumHypothesesAgree := by
  constructor
  · intro alen plen alen' plen' clen align rawlen s t t' hadm hadm' hsum h h'
    rw [status_of_exec_parse hadm h, status_of_exec_parse hadm' h', hsum]
  · intro alen plen align rawlen s t h hok
    obtain ⟨hadm, hraw, hcrc⟩ := endsWithItsCrc_of_parse_ok h hok
    obtain ⟨hadm', hcrc'⟩ := endsWithItsCrc_one_of_two hadm hcrc
    exact ⟨_, exec_parse_of_endsWithItsCrc hadm' (by omega) hcrc', rfl⟩

end Sys2Proof.Proofs
end

section
/-! The lemmas of the statements of host programs (R70): one whole command from an idle state, and the two programs by
induction over the commands they issue. -/

namespace Sys2Proof.Proofs

open Sys2Proof Sys2Proof.Machine Sys2Proof.Safety

/-! ### One whole command of the host -/

/-- ISSUE, EXEC and READ from an idle state: the host has read the response its request gives. -/
theorem stepN_issue_exec_read (r : Request) {s : State} (hidle : s.busy = false) :
    ∃ t, stepN 3 { s with schedule := [.issue r, .exec, .read] } = .next t ∧ t.busy = false ∧
      t.reads.head? = some (responseOf r) := by
  have hissue := step_of_host (nextMove_of_issue (s := { s with schedule := [.issue r, .exec, .read] }) rfl hidle)
  obtain ⟨hexec, -, -⟩ := step_of_nextMove_exec
    (nextMove_of_exec (s := State.issue { s with schedule := [.exec, .read] } r) rfl rfl)
  have hread := step_of_host (nextMove_of_read_valid
    (s := endsWith { State.issue s r with schedule := [.read] } (responseOf r)) rfl rfl)
  exact ⟨_, stepN_succ_eq_next_iff.mpr ⟨_, hissue, stepN_succ_eq_next_iff.mpr ⟨_, hexec,
    stepN_succ_eq_next_iff.mpr ⟨_, hread, rfl⟩⟩⟩, rfl, rfl⟩

theorem call_of_idle (r : Request) {s : State} (hidle : s.busy = false) :
    ∃ t, call r s = some (responseOf r, t) ∧ t.busy = false := by
  obtain ⟨t, hsteps, hbusy, hread⟩ := stepN_issue_exec_read r hidle
  have hcount : (if s.busy then 4 else 3) = 3 := by rw [hidle]; rfl
  refine ⟨t, ?_, hbusy⟩
  simp only [call, hcount, hsteps, hread, Option.map_some]

/-! ### `crcseq` -/

theorem responseOf_crcupd_eight (d : Byte) (c : Word16) :
    responseOf (wordRequest (.crcupd 8 d c)) =
      { Response.zero with status := Status.ok.code, crcOut := crcUpdate c d 8 } := by
  have hdec : decode (wordRequest (.crcupd 8 d c)).cmd = .command (.crcupd 8 d c) :=
    decodeOfEncodeIsTheCommand _ (by decide : 8 < 16)
  let s : State := { State.reset with req := wordRequest (.crcupd 8 d c) }
  have hexec := (execStep_of_command (s := s) hdec).trans ((crcupdResult 8 d c s).1 (by decide))
  exact congrArg State.rsp (Host.Outcome.next.inj ((execStep_eq_endsWith_responseOf s).symm.trans hexec))

theorem crcseqFrom_of_idle (c : Word16) (bytes : List Byte) {s : State} (hidle : s.busy = false) :
    ∃ t, crcseqFrom c bytes s = some (crcFrom c bytes, t) ∧ t.busy = false := by
  induction bytes generalizing c s with
  | nil => exact ⟨s, rfl, hidle⟩
  | cons b bs ih =>
    obtain ⟨t, hcall, hbusy⟩ := call_of_idle (wordRequest (.crcupd 8 b c)) hidle
    obtain ⟨u, hrest, hbusy'⟩ := ih (crcUpdate c b 8) hbusy
    refine ⟨u, ?_, hbusy'⟩
    rw [crcFrom_cons, ← hrest]
    simp [crcseqFrom, hcall, responseOf_crcupd_eight]

/-- Settles O51: by induction on the bytes, one CRCUPD folding in each. -/
theorem crcseqComputesTheCrc : Obligations.CrcseqComputesTheCrc :=
  fun bytes _ hidle => crcseqFrom_of_idle Config.crcInit bytes hidle

/-! ### `tryparse` -/

theorem tryparseOver_of_idle (alen clen rawlen : Nat) (F : Lanes 127) (plens : List Nat) {s : State}
    (hidle : s.busy = false) :
    ∃ t, tryparseOver alen clen rawlen F plens s =
      some ((plens.find? fun p => (responseOf (tryRequest alen clen rawlen F p)).status == 0#4).map fun p =>
        (p, responseOf (tryRequest alen clen rawlen F p)), t) ∧ t.busy = false := by
  induction plens generalizing s with
  | nil => exact ⟨s, rfl, hidle⟩
  | cons p ps ih =>
    obtain ⟨t, hcall, hbusy⟩ := call_of_idle (tryRequest alen clen rawlen F p) hidle
    by_cases hok : (responseOf (tryRequest alen clen rawlen F p)).status = 0#4
    · exact ⟨t, by simp [tryparseOver, hcall, hok, Status.code], hbusy⟩
    · obtain ⟨u, hrest, hbusy'⟩ := ih hbusy
      exact ⟨u, by simp [tryparseOver, hcall, hok, Status.code, hrest], hbusy'⟩

/-- Settles O52: by induction on the lengths to try, each try one call. -/
theorem tryparseStopsAtTheFirstOk : Obligations.TryparseStopsAtTheFirstOk :=
  fun alen clen rawlen _ _ F _ hidle => tryparseOver_of_idle alen clen rawlen F _ hidle

end Sys2Proof.Proofs
end

section
/-! The lemmas of the statements of the assembler, whose operands lie in the ranges R69 shows, and of several blocks on
one platform (R148). -/

namespace Sys2Proof.Proofs

open Sys2Proof Sys2Proof.Machine Sys2Proof.Safety

/-! ### The ranges of the operands -/

theorem requiredOperand_range {ops : List (OperandName × Nat)} {name : OperandName} {lo hi v : Nat}
    (h : requiredOperand ops name lo hi = some v) : lo ≤ v ∧ v ≤ hi := by
  unfold requiredOperand at h
  split at h
  · split at h
    next hrange => exact Option.some.inj h ▸ hrange
    next => cases h
  · cases h

theorem optionalOperand_range {ops : List (OperandName × Nat)} {name : OperandName} {hi v : Nat}
    (h : optionalOperand ops name hi = some v) : v ≤ hi := by
  unfold optionalOperand at h
  split at h
  · split at h
    next hrange => exact Option.some.inj h ▸ hrange
    next => cases h
  · exact Option.some.inj h ▸ Nat.zero_le hi

/-- The operands lie in the ranges R69 shows; RAWLEN may be too short for the hypothesis. -/
def InAssemblerRange : Instr → Prop
  | .crcupd bits _ _ => 1 ≤ bits ∧ bits ≤ 8
  | .assemble alen plen clen align _ _ _ => Instr.LengthsAdmitted alen plen clen align
  | .parse alen plen clen align rawlen => Instr.LengthsAdmitted alen plen clen align ∧ rawlen ≤ 127

theorem lengthsAdmitted_of_operands {ops : List (OperandName × Nat)} {alen plen clen align : Nat}
    (ha : requiredOperand ops .alen 1 32 = some alen) (hp : requiredOperand ops .plen 0 32 = some plen)
    (hc : requiredOperand ops .clen 1 2 = some clen) (hal : optionalOperand ops .align 0 = some align) :
    Instr.LengthsAdmitted alen plen clen align := by
  have halen := requiredOperand_range ha
  have hplen := requiredOperand_range hp
  have hclen := requiredOperand_range hc
  have halign := optionalOperand_range hal
  exact ⟨by omega, hplen.2, halen, by omega⟩

/-- Every mnemonic's operands are read in the ranges R69 shows. -/
theorem inAssemblerRange_of_assembleLine {l : AsmLine} {i : Instr} (h : assembleLine l = some i) :
    InAssemblerRange i := by
  obtain ⟨mnemonic, operands⟩ := l
  unfold assembleLine at h
  split at h
  next =>
    cases mnemonic with
    | crcupd =>
      simp only [Option.bind_eq_bind, Option.bind_eq_some_iff] at h
      obtain ⟨c, -, d, -, k, hk, hi⟩ := h
      obtain rfl := Option.some.inj hi
      exact requiredOperand_range hk
    | assemble =>
      simp only [Option.bind_eq_bind, Option.bind_eq_some_iff] at h
      obtain ⟨a, ha, p, hp, c, hc, al, hal, q, -, na, -, bg, -, hi⟩ := h
      obtain rfl := Option.some.inj hi
      exact lengthsAdmitted_of_operands ha hp hc hal
    | parse =>
      simp only [Option.bind_eq_bind, Option.bind_eq_some_iff] at h
      obtain ⟨a, ha, p, hp, c, hc, r, hr, al, hal, hi⟩ := h
      obtain rfl := Option.some.inj hi
      exact ⟨lengthsAdmitted_of_operands ha hp hc hal, (requiredOperand_range hr).2⟩
    | crcbyte =>
      simp only [Option.bind_eq_bind, Option.bind_eq_some_iff] at h
      obtain ⟨c, -, d, -, hi⟩ := h
      obtain rfl := Option.some.inj hi
      exact ⟨by decide, by decide⟩
    | crcbits =>
      simp only [Option.bind_eq_bind, Option.bind_eq_some_iff] at h
      obtain ⟨c, -, d, -, k, hk, hi⟩ := h
      obtain rfl := Option.some.inj hi
      exact requiredOperand_range hk
  next => cases h

/-! ### The assembled command -/

theorem lengths_fit_of_admitted {alen plen clen align : Nat} (h : Instr.LengthsAdmitted alen plen clen align) :
    alen < 64 ∧ plen < 64 ∧ clen < 4 ∧ align < 8 := by
  obtain ⟨halign, hplen, ⟨-, halen⟩, hclen⟩ := h
  omega

theorem wellFormed_of_inAssemblerRange {i : Instr} (h : InAssemblerRange i) : i.WellFormed := by
  cases i with
  | crcupd bits data crcin =>
    obtain ⟨-, hbits⟩ := h
    exact Nat.lt_of_le_of_lt hbits (by decide)
  | assemble alen plen clen align noack big seq => exact lengths_fit_of_admitted h
  | parse alen plen clen align rawlen =>
    obtain ⟨hadm, hraw⟩ := h
    obtain ⟨halen, hplen, hclen, halign⟩ := lengths_fit_of_admitted hadm
    exact ⟨halen, hplen, hclen, halign, Nat.lt_succ_of_le hraw⟩

/-- Every operand is legal, but that PARSE's buffer may be short. -/
theorem admitted_or_short_of_inAssemblerRange {i : Instr} (h : InAssemblerRange i) (s : State) :
    i.Admitted ∨ ∃ r, exec i s = .next (endsWith s r) ∧ r.status = 5#4 := by
  cases i with
  | crcupd bits data crcin => exact .inl h
  | assemble alen plen clen align noack big seq => exact .inl h
  | parse alen plen clen align rawlen =>
    obtain ⟨hadm, hmax⟩ := h
    by_cases hraw : 1 + alen + plen + clen ≤ rawlen
    · exact .inl ⟨hadm, hraw, by omega⟩
    · exact .inr ⟨_, exec_parse_of_short hadm (by omega) s, rfl⟩

/-- Settles O53: in these ranges no check fails but that of the buffer's length, which ends with `SHORT_BUFFER`. -/
theorem assembledCommandsAreLegal : Obligations.AssembledCommandsAreLegal := by
  intro l i h
  have hrange := inAssemblerRange_of_assembleLine h
  refine ⟨wellFormed_of_inAssemblerRange hrange, fun s => ?_⟩
  obtain hadm | ⟨r, he, hstatus⟩ := admitted_or_short_of_inAssemblerRange hrange s
  · obtain ⟨r, he, hok | hmismatch⟩ := exec_of_commandStatus_none (commandStatus_of_admitted hadm) s
    · exact ⟨r, he, .inl hok⟩
    · exact ⟨r, he, .inr (.inr hmismatch)⟩
  · exact ⟨r, he, .inr (.inl hstatus)⟩

/-! ### Several instances (R148) -/

/-- Settles O54: the step replaces the state at its own position of the list. -/
theorem instancesAreIndependent : Obligations.InstancesAreIndependent := by
  intro p q k h
  unfold stepAt at h
  split at h
  · cases h
  next s hs =>
    split at h
    next t ht =>
      obtain rfl : p.set k t = q := by simpa using h
      obtain ⟨hk, -⟩ := List.getElem?_eq_some_iff.mp hs
      exact ⟨fun j hj => List.getElem?_set_ne hj.symm, s, t, hs, ht, List.getElem?_set_self hk⟩
    next => simp at h
    next => simp at h

end Sys2Proof.Proofs
end
